-- ==== Sys2Proof/Word.lean ====
section
/-! DEFINITION. The words of the block: a byte, a frame of 13 bytes, a payload of 4 bytes (00_scope.md R13, R14). -/

namespace Sys2Proof

/-- R13: a byte is 8 bits, an unsigned integer in 0..255. -/
abbrev Byte := BitVec 8

/-- R14, R75: `F[0..12]`, thirteen bytes, `F[0]` the first one received. -/
abbrev Frame := Vector Byte 13

/-- R150: `p[0..3]`, the four bytes of a BCD payload. -/
abbrev Payload := Vector Byte 4

/-- The bytes of one requested step, as they lie in the stimulus (entry 3). -/
abbrev Record := List Byte

/-- The requests present at one instant (R207, entry 15). -/
abbrev Instant := List Record

end Sys2Proof
end

