-- ==== Sys2Proof/Config.lean ====
section
/-! DEFINITION. What an implementation fixes (00_scope.md R9) and the values the spec leaves unspecified, which no
proof can evaluate (10_state.md R37, 44_poll.md R178, R179, R187; entry 8). -/

namespace Sys2Proof

/-- R9: the three parameters of the model. -/
structure Config where
  /-- `C`, the capacity of RING in bytes. -/
  capacity : Nat
  /-- `T_STALE`, the staleness threshold in clock ticks. -/
  tStale : Nat
  /-- `W_T`, the width in bits of `now_ms` and of LBT. -/
  wT : Nat
deriving DecidableEq, Repr

/-- R9, column "default": the values that reproduce the document's examples. -/
def Config.standard : Config := { capacity := 256, tStale := 50, wT := 32 }

/-- R9, column "constraint": `C >= 2` and `2^W_T > T_STALE + 1` (which implies `T_STALE < 2^W_T`). -/
abbrev Config.Valid (c : Config) : Prop := 2 ≤ c.capacity ∧ c.tStale + 1 < 2 ^ c.wT

/-- R9: `W_I = ceil(log2(C))`, the width of HEAD, TAIL and HSNAP. -/
def Config.wI (c : Config) : Nat := Nat.log2 (c.capacity - 1) + 1

/-- The unspecified FBUF after a RESET (R187). No body: nothing can evaluate it (entries 7 and 8). -/
opaque Config.freeFbuf : Nat → Frame

/-- The unspecified HSNAP after a RESET (R187), reduced to `W_I` bits where it is used. -/
opaque Config.freeHsnap : Nat → Nat

/-- The unspecified LBT after a RESET (R187), reduced to `W_T` bits where it is used. -/
opaque Config.freeLbt : Nat → Nat

/-- The unspecified LERR_CODE after a RESET (R187). -/
opaque Config.freeLerrCode : Nat → Byte

/-- The unspecified RES_MM after a RESET, a POLL.END or an Error Report (R178, R179, R187). -/
opaque Config.freeResMm : Nat → BitVec 28

/-- The unspecified RES_CODE after a RESET, a POLL.END or a Measurement (R178, R179, R187). -/
opaque Config.freeResCode : Nat → Byte

end Sys2Proof
end

