-- ==== Sys2Proof/Syntax.lean ====
section
/-! DEFINITION. The operations of the block: one constructor per row of opcode_table.json (00_scope.md R8). -/

namespace Sys2Proof

/-- 00_scope.md R16: what an ASM step can return inside `some`. -/
inductive Result where
  /-- `Measurement(mm)`: integer millimetres in 28 bits (10_state.md R33, 43_decoder.md R152). -/
  | measurement (mm : BitVec 28)
  /-- `ErrorReport(code)`: one byte, taken whole (30_encoding.md R86). -/
  | errorReport (code : Byte)
deriving DecidableEq, Repr

/-- The 24 rows of the opcode table. A clock sample `t` is the value of `now_ms` in that step (41_assembler.md R122). -/
inductive Instr where
  /-- DEC.BADCHK, 42_validator.md R143. -/
  | decBadchk (f : Frame)
  /-- DEC.MEAS20, 43_decoder.md R153. -/
  | decMeas20 (f : Frame)
  /-- DEC.MEAS21, 43_decoder.md R154. -/
  | decMeas21 (f : Frame)
  /-- DEC.MEAS22, 43_decoder.md R155. -/
  | decMeas22 (f : Frame)
  /-- DEC.ERR_EE, 43_decoder.md R156. -/
  | decErrEe (f : Frame)
  /-- DEC.ERR_HEUR, 43_decoder.md R157. -/
  | decErrHeur (f : Frame)
  /-- DEC.DISCARD, 43_decoder.md R158. -/
  | decDiscard (f : Frame)
  /-- RXWRITE(b), 40_ring.md R100. -/
  | rxwrite (b : Byte)
  /-- POLL, 44_poll.md R175 and R181; `t :: ts` are the samples of the successive byte steps (30_encoding.md R95). -/
  | poll (t : Nat) (ts : List Nat)
  /-- GETLASTERROR, 44_poll.md R185. -/
  | getlasterror
  /-- RESET, 44_poll.md R187. -/
  | reset
  /-- POLL.START, 44_poll.md R176. -/
  | pollStart
  /-- SNAP, 40_ring.md R103. -/
  | snap
  /-- POLL.STEP(t), 44_poll.md R177. -/
  | pollStep (t : Nat)
  /-- DRAIN, 40_ring.md R105. -/
  | drain
  /-- ASM(b, t), 41_assembler.md R120. -/
  | asm (b : Byte) (t : Nat)
  /-- POLL.END, 44_poll.md R178. -/
  | pollEnd
  /-- END_POLL(x), 44_poll.md R179. -/
  | endPoll (x : Result)
  /-- CHK(F), 42_validator.md R140. -/
  | chk (f : Frame)
  /-- BCD32(p), 43_decoder.md R150. -/
  | bcd32 (p : Payload)
  /-- DECODE_FRAME(F), 43_decoder.md R159. -/
  | decodeFrame (f : Frame)
  /-- CMD.LASER_ON, 30_encoding.md R92. -/
  | cmdLaserOn
  /-- CMD.LASER_OFF, 30_encoding.md R92. -/
  | cmdLaserOff
  /-- CMD.QUICK_READ, 30_encoding.md R92. -/
  | cmdQuickRead
deriving DecidableEq, Repr

end Sys2Proof
end

