-- ==== Sys2Proof/Machine/Operands.lean ====
section
/-! DEFINITION. The constants of 00_scope.md R10, the fields of a frame (30_encoding.md R75), the operands read
from them (R85, R86), BCD32 (43_decoder.md R150), the clock sample and the index and time arithmetic of
43_decoder.md R161. -/

namespace Sys2Proof.Machine

/-! Constants (R10). The literals are unaudited (93_implementation_defined.md U11, entry 18). -/

/-- R10 `HEADER`. -/
def headerByte : Byte := 0xAA
/-- R10 `FN_MEAS`, first code. -/
def fnMeas20 : Byte := 0x20
/-- R10 `FN_MEAS`, second code. -/
def fnMeas21 : Byte := 0x21
/-- R10 `FN_MEAS`, third code. -/
def fnMeas22 : Byte := 0x22
/-- R10 `FN_ERR`. -/
def fnErr : Byte := 0xEE
/-- R10 `ERR_HEUR_LIMIT`. -/
def errHeurLimit : Byte := 0x20
/-- R10 `MM_PER_M`. -/
def mmPerM : Nat := 1000

/-! Fields of a frame (R75, R77 to R84). -/

/-- R77 `HDR`, byte 0. -/
def hdr (f : Frame) : Byte := f[0]
/-- R78 `ADDR`, byte 1. -/
def addr (f : Frame) : Byte := f[1]
/-- R79 `CLS`, byte 2. -/
def cls (f : Frame) : Byte := f[2]
/-- R80 `FN`, byte 3, the function code. -/
def fn (f : Frame) : Byte := f[3]
/-- R81 `LEN_HI`, byte 4. -/
def lenHi (f : Frame) : Byte := f[4]
/-- R81 `LEN_LO`, byte 5. -/
def lenLo (f : Frame) : Byte := f[5]
/-- R82 `P0`, byte 6. -/
def p0 (f : Frame) : Byte := f[6]
/-- R82 `P1`, byte 7. -/
def p1 (f : Frame) : Byte := f[7]
/-- R82 `P2`, byte 8. -/
def p2 (f : Frame) : Byte := f[8]
/-- R82 `P3`, byte 9. -/
def p3 (f : Frame) : Byte := f[9]
/-- R83 `X0`, byte 10. -/
def x0 (f : Frame) : Byte := f[10]
/-- R83 `X1`, byte 11. -/
def x1 (f : Frame) : Byte := f[11]
/-- R84 `CS`, byte 12. -/
def cs (f : Frame) : Byte := f[12]

/-- R82: the BCD payload `F[6..9]`. -/
def payload (f : Frame) : Payload := #v[p0 f, p1 f, p2 f, p3 f]

/-- R86: the Error Report operand is byte 7 taken whole, unmasked (90_conflicts.md C4). -/
def errorCode (f : Frame) : Byte := p1 f

/-- R13: `v[7:4]`. -/
def highNibble (v : Byte) : Nat := v.toNat / 16

/-- R13: `v[3:0]`. -/
def lowNibble (v : Byte) : Nat := v.toNat % 16

/-- R85: `d(v) = v[7:4]*10 + v[3:0]`, no check that a nibble is decimal (R89). -/
def digitPair (v : Byte) : Nat := highNibble v * 10 + lowNibble v

/-- R150, exact: `value <- value*100 + high*10 + low` over the four bytes in order. -/
def bcdValue (p : Payload) : Nat := p.toList.foldl (fun value v => value * 100 + digitPair v) 0

/-- R150 in the 28-bit accumulator of R151, which never overflows. -/
def bcd32 (p : Payload) : BitVec 28 := BitVec.ofNat 28 (bcdValue p)

/-- R152: the document's distance, `mm / 1000` as an exact rational. -/
def metres (mm : BitVec 28) : ℚ := (mm.toNat : ℚ) / (mmPerM : ℚ)

/-! Index and time arithmetic (R108, R121, R161). -/

/-- R108: index arithmetic is always `(x + 1) mod C`. -/
def nextIndex (c : Config) (x : Nat) : Nat := (x + 1) % c.capacity

/-- R31, R104: `(a - b) mod C` for indices below `C`. -/
def indexDistance (c : Config) (a b : Nat) : Nat := (a % c.capacity + (c.capacity - b % c.capacity)) % c.capacity

/-- R212: the clock input is `W_T` bits wide. -/
def sampleTime (c : Config) (t : Nat) : Nat := t % 2 ^ c.wT

/-- R15, R121: `(t - LBT) mod 2^W_T` on unsigned `W_T`-bit values. -/
def timeGap (c : Config) (t lbt : Nat) : Nat := (t % 2 ^ c.wT + (2 ^ c.wT - lbt % 2 ^ c.wT)) % 2 ^ c.wT

/-- R92: the nine bytes of Laser On. -/
def laserOnBytes : Record := [0xAA, 0x00, 0x01, 0xBE, 0x00, 0x01, 0x00, 0x01, 0xC1]

/-- R92: the nine bytes of Laser Off. -/
def laserOffBytes : Record := [0xAA, 0x00, 0x01, 0xBE, 0x00, 0x01, 0x00, 0x00, 0xC0]

/-- R92: the nine bytes of Quick Read. -/
def quickReadBytes : Record := [0xAA, 0x00, 0x00, 0x22, 0x00, 0x01, 0x00, 0x00, 0x23]

end Sys2Proof.Machine
end

