-- ==== Sys2Proof/Machine/Flags.lean ====
section
/-! DEFINITION. The predicates of 10_state.md R29, computed inside a step and never stored, on the values they
read; the checksum of 42_validator.md R140. -/

namespace Sys2Proof.Machine

/-- R29 `searching`: `POS = 0`. -/
def isSearching (pos : BitVec 4) : Bool := pos == 0

/-- R29 `accumulating`: `1 <= POS <= 12`. -/
def isAccumulating (pos : BitVec 4) : Bool := decide (1 ≤ pos.toNat) && decide (pos.toNat ≤ 12)

/-- R29 `stale(t)`, R121: `POS > 0` and the gap strictly above `T_STALE`. -/
def isStale (c : Config) (pos : BitVec 4) (lbt t : Nat) : Bool := pos != 0 && decide (c.tStale < timeGap c t lbt)

/-- R29 `is_header(b)`. -/
def isHeader (b : Byte) : Bool := b == headerByte

/-- R29 `full`: `POS = 13` after step 4. -/
def isFull (pos : BitVec 4) : Bool := pos == 13

/-- R140: the 8-bit sum of `F[1..11]`, from 0, wrapping (R141). -/
def checksum (f : Frame) : Byte := ((f.toList.drop 1).take 11).foldl (fun s b => s + b) 0

/-- R29 `chk_ok(F)`, R140: the sum equals `F[12]`. -/
def chkOk (f : Frame) : Bool := checksum f == cs f

/-- R29 `is_meas(F)`. -/
def isMeas (f : Frame) : Bool := fn f == fnMeas20 || fn f == fnMeas21 || fn f == fnMeas22

/-- R157: the heuristic, `F[2] = 0x00` and `F[6] = 0x00` and `F[7] < 0x20` unsigned. -/
def isErrHeur (f : Frame) : Bool := cls f == 0 && p0 f == 0 && decide ((p1 f).toNat < errHeurLimit.toNat)

/-- R29 `is_err(F)`. -/
def isErr (f : Frame) : Bool := fn f == fnErr || isErrHeur f

end Sys2Proof.Machine
end

