-- ==== Sys2Proof/Machine/FrameTable.lean ====
section
/-! DEFINITION. The opcode map of the receive frame as a table: the FRAME13 rows of opcode_table.json with their
match, mask, priority and checksum constraint, and the decoder "written from the table alone" of
30_encoding.md R93. -/

namespace Sys2Proof.Machine

/-- R87: the seven classes of 13 accumulated bytes. -/
inductive FrameClass where
  | badchk | meas20 | meas21 | meas22 | errEe | errHeur | discard
deriving DecidableEq, Repr

/-- R93: one FRAME13 row; `needsChk` is the constraint, `true` for `chk_ok` and `false` for `not chk_ok`. -/
structure FrameRow where
  cls : FrameClass
  matchBits : BitVec 104
  maskBits : BitVec 104
  needsChk : Bool
  priority : Nat
deriving DecidableEq, Repr

/-- The FRAME13 rows of opcode_table.json, in the table's order, which is also that of rising priority number. -/
def frameRows : List FrameRow :=
  [ { cls := .badchk, matchBits := 0xAA000000000000000000000000, maskBits := 0xFF000000000000000000000000,
      needsChk := false, priority := 1 },
    { cls := .meas20, matchBits := 0xAA000020000000000000000000, maskBits := 0xFF0000FF000000000000000000,
      needsChk := true, priority := 2 },
    { cls := .meas21, matchBits := 0xAA000021000000000000000000, maskBits := 0xFF0000FF000000000000000000,
      needsChk := true, priority := 2 },
    { cls := .meas22, matchBits := 0xAA000022000000000000000000, maskBits := 0xFF0000FF000000000000000000,
      needsChk := true, priority := 2 },
    { cls := .errEe, matchBits := 0xAA0000EE000000000000000000, maskBits := 0xFF0000FF000000000000000000,
      needsChk := true, priority := 3 },
    { cls := .errHeur, matchBits := 0xAA000000000000000000000000, maskBits := 0xFF00FF000000FFE00000000000,
      needsChk := true, priority := 4 },
    { cls := .discard, matchBits := 0xAA000000000000000000000000, maskBits := 0xFF000000000000000000000000,
      needsChk := true, priority := 5 } ]

/-- R76: the 104-bit view `W`, byte `i` at `W[103-8i : 96-8i]`. -/
def frameView (f : Frame) : BitVec 104 := f.toList.foldl (fun w b => (w <<< 8) ||| b.setWidth 104) 0

/-- R76: a row matches a frame when `(W and mask) = match`; R93: and its constraint holds. -/
def FrameRow.fits (r : FrameRow) (f : Frame) : Bool :=
  (frameView f &&& r.maskBits == r.matchBits) && (r.needsChk == chkOk f)

/-- R93: among the rows that fit, the one of lowest priority number; none when the header is not 0xAA. -/
def classify (f : Frame) : Option FrameClass := (frameRows.find? (fun r => r.fits f)).map (fun r => r.cls)

/-- The instruction that a class stands for. -/
def FrameClass.instr : FrameClass → Frame → Instr
  | .badchk, f => .decBadchk f
  | .meas20, f => .decMeas20 f
  | .meas21, f => .decMeas21 f
  | .meas22, f => .decMeas22 f
  | .errEe, f => .decErrEe f
  | .errHeur, f => .decErrHeur f
  | .discard, f => .decDiscard f

end Sys2Proof.Machine
end

