-- ==== Sys2Proof/WellFormed.lean ====
section
/-! DEFINITION. Which instructions have an encoding: the fixed bits and constraints of the rows of
opcode_table.json, and clock samples of `W_T` bits (10_state.md R41, port TIME). -/

namespace Sys2Proof

/-- A clock sample is a value the `W_T`-bit port TIME can carry (R41, R212). -/
def timeFits (c : Config) (t : Nat) : Bool := decide (t < 2 ^ c.wT)

/-- The instruction can be written in the encoding: a frame of a class is classified so by the table (R93), the
operand of CHK and DECODE_FRAME has the header the pattern fixes, every clock sample fits. -/
def Instr.wellFormed (c : Config) : Instr → Bool
  | .decBadchk f => Machine.classify f == some .badchk
  | .decMeas20 f => Machine.classify f == some .meas20
  | .decMeas21 f => Machine.classify f == some .meas21
  | .decMeas22 f => Machine.classify f == some .meas22
  | .decErrEe f => Machine.classify f == some .errEe
  | .decErrHeur f => Machine.classify f == some .errHeur
  | .decDiscard f => Machine.classify f == some .discard
  | .rxwrite _ => true
  | .poll t ts => timeFits c t && ts.all (timeFits c)
  | .getlasterror => true
  | .reset => true
  | .pollStart => true
  | .snap => true
  | .pollStep t => timeFits c t
  | .drain => true
  | .asm _ t => timeFits c t
  | .pollEnd => true
  | .endPoll _ => true
  | .chk f => f[0] == Machine.headerByte
  | .bcd32 _ => true
  | .decodeFrame f => f[0] == Machine.headerByte
  | .cmdLaserOn => true
  | .cmdLaserOff => true
  | .cmdQuickRead => true

end Sys2Proof
end

