-- ==== Sys2Proof/Decode.lean ====
section
/-! DEFINITION. From the bytes of a requested step to the instruction, and back.

The spec gives bit patterns over named signals and no stream that carries them (30_encoding.md R93, R94), so a record
is a selector byte, which names the signals, then the bits of the row's pattern, most significant first in whole
bytes, then the operands the pattern gives no bits (clock samples, the operand of END_POLL). DESIGN CHOICE, entry 3.
The thirteen bytes of a FRAME13 record carry no selector of their class: the class is decoded from them (R87). -/

namespace Sys2Proof

/-- Why a record is no instruction. Each is raised by `decode` alone, and each is safe: nothing runs. -/
inductive DecodeError where
  /-- The record has no byte. -/
  | emptyRecord
  /-- The selector byte names no signals of the block. -/
  | unknownSelector
  /-- The record is shorter or longer than its row. -/
  | badLength
  /-- The fixed bits of the row's pattern are not there (a strobe at 0, a header that is not 0xAA). -/
  | patternMismatch
  /-- A clock sample is wider than the port TIME. -/
  | timeTooWide
  /-- The operand of END_POLL is neither a Measurement of 28 bits nor an Error Report. -/
  | badResult
  /-- Nine bytes that are none of the three commands of R92. -/
  | unknownCommand
deriving DecidableEq, Repr

/-! Selector bytes (entry 3). -/

/-- Signals `rx_valid`, `rx_data[7:0]`. -/
def selRx : Byte := 0x00
/-- Signal `poll_req`. -/
def selPoll : Byte := 0x01
/-- Port LERR: no input signal. -/
def selLerr : Byte := 0x02
/-- Signal `rst`. -/
def selRst : Byte := 0x03
/-- POLL.START: bits PHASE, poll_req. -/
def selPollStart : Byte := 0x10
/-- SNAP: bits PHASE, poll_req. -/
def selSnap : Byte := 0x11
/-- POLL.STEP: bit PHASE, then `now_ms`. -/
def selPollStep : Byte := 0x12
/-- DRAIN: bit PHASE. -/
def selDrain : Byte := 0x13
/-- ASM: bits PHASE, b[7:0], then `now_ms`. -/
def selAsm : Byte := 0x14
/-- POLL.END: bit PHASE. -/
def selPollEnd : Byte := 0x15
/-- END_POLL: bit PHASE, then the result. -/
def selEndPoll : Byte := 0x16
/-- CHK: the 104 bits of F. -/
def selChk : Byte := 0x20
/-- BCD32: the 32 bits of p. -/
def selBcd32 : Byte := 0x21
/-- DECODE_FRAME: the 104 bits of F. -/
def selDecodeFrame : Byte := 0x22
/-- A receive frame, classified by its own bits. -/
def selFrame : Byte := 0x30
/-- A nine-byte transmit command. -/
def selCmd : Byte := 0x40

/-! Numbers as bytes: the clock samples and the millimetres, least significant byte first (entry 3). -/

/-- `n` bytes of `v`, least significant first. -/
def leBytes : Nat → Nat → Record
  | 0, _ => []
  | n + 1, v => BitVec.ofNat 8 v :: leBytes n (v / 256)

/-- The number whose bytes, least significant first, are these. -/
def leValue : Record → Nat
  | [] => 0
  | b :: bs => b.toNat + 256 * leValue bs

/-- `n` bytes of `v`, most significant first: how the bits of a row of opcode_table.json lie in a record. -/
def beBytes (n v : Nat) : Record := (leBytes n v).reverse

/-- How many bytes a clock sample of `W_T` bits takes. -/
def timeBytes (c : Config) : Nat := (c.wT + 7) / 8

/-- Thirteen bytes as a frame. -/
def frameOf : Record → Option Frame
  | [b0, b1, b2, b3, b4, b5, b6, b7, b8, b9, b10, b11, b12] =>
    some #v[b0, b1, b2, b3, b4, b5, b6, b7, b8, b9, b10, b11, b12]
  | _ => none

/-! The decoder, one function per shape of record. -/

/-- One clock sample, the whole of the rest of a record. -/
def decodeTime (c : Config) (body : Record) : Except DecodeError Nat :=
  if body.length = timeBytes c then
    if timeFits c (leValue body) then .ok (leValue body) else .error .timeTooWide
  else .error .badLength

/-- Any number of clock samples; `fuel` is at least their number. -/
def decodeTimes (c : Config) : Nat → Record → Except DecodeError (List Nat)
  | _, [] => .ok []
  | 0, _ :: _ => .error .badLength
  | fuel + 1, b :: bs =>
    match decodeTime c ((b :: bs).take (timeBytes c)) with
    | .error e => .error e
    | .ok t =>
      match decodeTimes c fuel ((b :: bs).drop (timeBytes c)) with
      | .error e => .error e
      | .ok ts => .ok (t :: ts)

/-- RXWRITE: pattern `1dddddddd` over `rx_valid`, `rx_data` (R94). -/
def decodeRx : Record → Except DecodeError Instr
  | [strobe, d] => if strobe = 1 then .ok (.rxwrite d) else .error .patternMismatch
  | _ => .error .badLength

/-- POLL: pattern `1` over `poll_req` (R94), then at least one clock sample (R95). -/
def decodePoll (c : Config) : Record → Except DecodeError Instr
  | strobe :: body =>
    if strobe = 1 then
      match decodeTimes c body.length body with
      | .error e => .error e
      | .ok [] => .error .badLength
      | .ok (t :: ts) => .ok (.poll t ts)
    else .error .patternMismatch
  | [] => .error .badLength

/-- A row whose pattern is one byte and that has no operand. -/
def decodePlain (i : Instr) : Record → Except DecodeError Instr
  | [strobe] => if strobe = 1 then .ok i else .error .patternMismatch
  | _ => .error .badLength

/-- POLL.STEP: pattern `1` over PHASE, then the clock sample. -/
def decodePollStep (c : Config) : Record → Except DecodeError Instr
  | phase :: body =>
    if phase = 1 then
      match decodeTime c body with
      | .error e => .error e
      | .ok t => .ok (.pollStep t)
    else .error .patternMismatch
  | [] => .error .badLength

/-- ASM: pattern `1bbbbbbbb` over PHASE and `b`, then the clock sample. -/
def decodeAsm (c : Config) : Record → Except DecodeError Instr
  | phase :: b :: body =>
    if phase = 1 then
      match decodeTime c body with
      | .error e => .error e
      | .ok t => .ok (.asm b t)
    else .error .patternMismatch
  | _ => .error .badLength

/-- END_POLL: pattern `1` over PHASE, then RES_KIND's code of the result (R97) and its value. -/
def decodeEndPoll : Record → Except DecodeError Instr
  | [phase, kind, b0] =>
    if phase = 1 then
      if kind = 2 then .ok (.endPoll (.errorReport b0)) else .error .badResult
    else .error .patternMismatch
  | [phase, kind, b0, b1, b2, b3] =>
    if phase = 1 then
      if kind = 1 ∧ leValue [b0, b1, b2, b3] < 2 ^ 28 then
        .ok (.endPoll (.measurement (BitVec.ofNat 28 (leValue [b0, b1, b2, b3]))))
      else .error .badResult
    else .error .patternMismatch
  | _ => .error .badLength

/-- CHK and DECODE_FRAME: pattern `10101010` and then 96 free bits. -/
def decodeFunc (make : Frame → Instr) (body : Record) : Except DecodeError Instr :=
  match frameOf body with
  | none => .error .badLength
  | some f => if f[0] = Machine.headerByte then .ok (make f) else .error .patternMismatch

/-- BCD32: 32 free bits. -/
def decodeBcd32 : Record → Except DecodeError Instr
  | [b0, b1, b2, b3] => .ok (.bcd32 #v[b0, b1, b2, b3])
  | _ => .error .badLength

/-- A receive frame: the class is read from the frame by the FRAME13 rows (R87, R93). -/
def decodeFrameRecord (body : Record) : Except DecodeError Instr :=
  match frameOf body with
  | none => .error .badLength
  | some f =>
    match Machine.classify f with
    | none => .error .patternMismatch
    | some k => .ok (k.instr f)

/-- The CMD9 rows: an all-ones mask, so all nine bytes are compared (R92). -/
def decodeCmd (body : Record) : Except DecodeError Instr :=
  if body = Machine.laserOnBytes then .ok .cmdLaserOn
  else if body = Machine.laserOffBytes then .ok .cmdLaserOff
  else if body = Machine.quickReadBytes then .ok .cmdQuickRead
  else if body.length = 9 then .error .unknownCommand
  else .error .badLength

/-- The decoder: total on any bytes. -/
def decode (c : Config) : Record → Except DecodeError Instr
  | [] => .error .emptyRecord
  | sel :: body =>
    if sel = selRx then decodeRx body
    else if sel = selPoll then decodePoll c body
    else if sel = selLerr then (if body = [] then .ok .getlasterror else .error .badLength)
    else if sel = selRst then decodePlain .reset body
    else if sel = selPollStart then decodePlain .pollStart body
    else if sel = selSnap then decodePlain .snap body
    else if sel = selPollStep then decodePollStep c body
    else if sel = selDrain then decodePlain .drain body
    else if sel = selAsm then decodeAsm c body
    else if sel = selPollEnd then decodePlain .pollEnd body
    else if sel = selEndPoll then decodeEndPoll body
    else if sel = selChk then decodeFunc .chk body
    else if sel = selBcd32 then decodeBcd32 body
    else if sel = selDecodeFrame then decodeFunc .decodeFrame body
    else if sel = selFrame then decodeFrameRecord body
    else if sel = selCmd then decodeCmd body
    else .error .unknownSelector

/-! The encoder, written from the same patterns. -/

/-- The bytes of one clock sample. -/
def encodeTime (c : Config) (t : Nat) : Record := leBytes (timeBytes c) t

/-- The operand of END_POLL: RES_KIND's code (R97) and the value. -/
def encodeResult : Result → Record
  | .measurement mm => 1 :: leBytes 4 mm.toNat
  | .errorReport code => [2, code]

/-- The record of an instruction. -/
def encode (c : Config) : Instr → Record
  | .decBadchk f => selFrame :: f.toList
  | .decMeas20 f => selFrame :: f.toList
  | .decMeas21 f => selFrame :: f.toList
  | .decMeas22 f => selFrame :: f.toList
  | .decErrEe f => selFrame :: f.toList
  | .decErrHeur f => selFrame :: f.toList
  | .decDiscard f => selFrame :: f.toList
  | .rxwrite b => [selRx, 1, b]
  | .poll t ts => selPoll :: 1 :: (t :: ts).flatMap (encodeTime c)
  | .getlasterror => [selLerr]
  | .reset => [selRst, 1]
  | .pollStart => [selPollStart, 1]
  | .snap => [selSnap, 1]
  | .pollStep t => selPollStep :: 1 :: encodeTime c t
  | .drain => [selDrain, 1]
  | .asm b t => selAsm :: 1 :: b :: encodeTime c t
  | .pollEnd => [selPollEnd, 1]
  | .endPoll x => selEndPoll :: 1 :: encodeResult x
  | .chk f => selChk :: f.toList
  | .bcd32 p => selBcd32 :: p.toList
  | .decodeFrame f => selDecodeFrame :: f.toList
  | .cmdLaserOn => selCmd :: Machine.laserOnBytes
  | .cmdLaserOff => selCmd :: Machine.laserOffBytes
  | .cmdQuickRead => selCmd :: Machine.quickReadBytes

/-! The words of opcode_table.json. The table's bits do not name the signals they stand on, so rows of one width share
their words; this reading takes the first row of the table that a word of that width can be (entry 17). -/

/-- The record of a table word: 104 bits a receive frame, 72 a command, 32 a BCD payload, 16 (or 9) the port RX, or the
port LERR where `rx_valid` is 0, 8 (or 1) the port POLL, 2 POLL.START; operand bits the table does not give are 0. -/
def tableRecord (c : Config) (nbits w : Nat) : Record :=
  match nbits with
  | 104 => if w < 2 ^ 104 then selFrame :: beBytes 13 w else []
  | 72 => if w < 2 ^ 72 then selCmd :: beBytes 9 w else []
  | 32 => if w < 2 ^ 32 then selBcd32 :: beBytes 4 w else []
  | 16 => if w < 256 then [selLerr] else if w < 2 ^ 16 then selRx :: beBytes 2 w else []
  | 9 => if w < 256 then [selLerr] else if w < 2 ^ 9 then selRx :: beBytes 2 w else []
  | 8 => if w < 256 then selPoll :: (beBytes 1 w ++ encodeTime c 0) else []
  | 2 => if w < 4 then selPollStart :: beBytes 1 w else []
  | 1 => if w < 2 then selPoll :: (beBytes 1 w ++ encodeTime c 0) else []
  | _ => []

/-- What the decoder reads from a word numbered as opcode_table.json numbers its bits. -/
def decodeTableWord (nbits w : Nat) : Option Instr :=
  match decode Config.standard (tableRecord Config.standard nbits w) with
  | .ok i => some i
  | .error _ => none

end Sys2Proof
end

