-- ==== Sys2Proof/Machine/State.lean ====
section
/-! DEFINITION. The state of the block (10_state.md R20), plain data, the reasons a step can stop, and the state
after reset (R37). -/

namespace Sys2Proof.Machine

/-- 10_state.md R30: whether a poll is in progress. -/
inductive Phase where
  /-- `IDLE` (0). -/
  | idle
  /-- `DRAINING` (1), from the SNAP of a POLL until the step that ends it. -/
  | draining
deriving DecidableEq, Repr

/-- The RING: (index, byte) pairs at strictly rising indices. An index that is not listed holds no value, because
nothing has written it since reset (R37, R38; entry 6). -/
abbrev Memory := List Host.Cell

/-- 00_scope.md R15: what a step delivers to its caller; 10_state.md R41: the strobe `poll_done`. The model's own
output (entry 4): no operation reads it. -/
inductive Delivered where
  /-- The step returns nothing. -/
  | nothing
  /-- The byte a DRAIN takes (R105). -/
  | byte (b : Byte)
  /-- The optional result of ASM, DECODE_FRAME and the frame classes (R120, R159). -/
  | frameResult (r : Option Result)
  /-- The truth value of CHK (R140). -/
  | chkResult (ok : Bool)
  /-- The number of BCD32 (R150). -/
  | bcdResult (value : BitVec 28)
  /-- The latch as GETLASTERROR returns it (R185). -/
  | latch (code : Option Byte)
  /-- The step ended a poll: `poll_done`, with RES_* valid from then on (R178, R179). -/
  | pollDone
  /-- The bytes the command collaborator puts on its own transmit line (R92, R216; entry 13). -/
  | sent (bytes : Record)
deriving DecidableEq, Repr

/-- 44_poll.md R177: how far the byte step has come whose DRAIN, ASM and END_POLL are requested one by one. The model's
own (entry 10): the spec performs the three in one atomic step, and splitting them "would change nothing observable". -/
inductive ByteStep where
  /-- No byte step is under way. -/
  | outside
  /-- DRAIN has yielded this byte, for ASM. -/
  | drained (b : Byte)
  /-- ASM has returned this result, for END_POLL. -/
  | returned (x : Result)
deriving DecidableEq, Repr

/-- Why a step faults. The block itself raises no fault (60_exceptions.md R200): these mark states no run from reset
reaches (10_state.md R38, R39), so each is safe. -/
inductive Fault where
  /-- Raised by DRAIN, POLL.STEP and POLL at a RING cell that nothing has written since reset. Safe (entry 6). -/
  | ringCellUnwritten
  /-- Raised by RXWRITE, DRAIN, POLL.STEP and POLL at an index outside `0..C-1`. Safe (entry 12). -/
  | ringIndexOutOfRange
  /-- Raised by ASM, POLL.STEP and POLL when step 4 would store at a `POS` above 12. Safe (entry 12). -/
  | fbufIndexOutOfRange
deriving DecidableEq, Repr

/-- Why a step is refused: there is no such step in the block. Each is safe: nothing runs. -/
inductive Refusal where
  /-- Raised by `exec` for an instruction that has no meaning yet; no arm does. Safe. -/
  | notModelled (mnemonic : String)
  /-- Raised by `step` for a record that no row of the opcode table matches. Safe (entry 3). -/
  | undecodable (e : DecodeError)
  /-- Raised by POLL, POLL.START and SNAP while a poll is in progress (44_poll.md R183). Safe (entry 11). -/
  | pollBusy
  /-- Raised by POLL.STEP, DRAIN, ASM, POLL.END and END_POLL while `PHASE = IDLE` (R105, R177, R178). Safe (entry 11). -/
  | notDraining
  /-- Raised by `step` for DECODE_FRAME or a frame class requested where no ASM step completes that frame: R159 calls
  them "only from step 5 of ASM with `F = FBUF`" (43_decoder.md). Safe (entry 10). -/
  | notInAsm
  /-- Raised by `step` for a part of a byte step out of its order: ASM of a byte that no DRAIN has yielded, END_POLL of a
  result that no ASM has returned (44_poll.md R177, R179), and DRAIN, POLL.STEP and POLL.END before the byte step under way
  is over. Safe (entry 10). -/
  | notInByteStep
  /-- Raised by POLL.STEP and DRAIN while `TAIL = HSNAP` (40_ring.md R106). Safe (entry 11). -/
  | regionDrained
  /-- Raised by POLL.END while `TAIL` differs from `HSNAP` (R178). Safe (entry 11). -/
  | regionNotDrained
deriving DecidableEq, Repr

/-- The outcome of an operation that hands a value on. -/
abbrev Res (α : Type) := Host.Outcome α Fault Refusal

/-- 10_state.md R20, and after it the model's own fields. -/
structure State where
  /-- `C`, `T_STALE`, `W_T` (00_scope.md R9); written by no step (entry 1). -/
  cfg : Config
  /-- `RING` (R34). -/
  ring : Memory
  /-- `HEAD` (R25), an index below `C`. -/
  head : Nat
  /-- `TAIL` (R23), an index below `C`. -/
  tail : Nat
  /-- `HSNAP` (R26), an index below `C` while a poll is in progress. -/
  hsnap : Nat
  /-- `FBUF[0..12]` (R21). -/
  fbuf : Frame
  /-- `POS` (R24). -/
  pos : BitVec 4
  /-- `LBT` (R27), below `2^W_T`. -/
  lbt : Nat
  /-- `LERR_V` (R28). -/
  lerrV : Bool
  /-- `LERR_CODE` (R28). -/
  lerrCode : Byte
  /-- `PHASE` (R30). -/
  phase : Phase
  /-- `RES_KIND` (R33). -/
  resKind : BitVec 2
  /-- `RES_MM` (R33). -/
  resMm : BitVec 28
  /-- `RES_CODE` (R33). -/
  resCode : Byte
  /-- How many steps have taken free values so far (entry 8). -/
  draws : Nat
  /-- The requested steps, instant after instant (30_encoding.md R95; entry 2). -/
  pending : List Instant
  /-- How far a byte step requested in parts has come (entry 10). -/
  byteStep : ByteStep
  /-- What the last step delivered (entry 4). -/
  delivered : Delivered
deriving DecidableEq, Repr

/-- R37: the machine after power-up. HSNAP, FBUF, LBT, LERR_CODE, RES_MM and RES_CODE, which R37 leaves
unspecified, are 0 here. DESIGN CHOICE, unsafe (entry 5). RING has no written cell. -/
def State.reset : State where
  cfg := Config.standard
  ring := []
  head := 0
  tail := 0
  hsnap := 0
  fbuf := #v[0, 0, 0, 0, 0, 0, 0, 0, 0, 0, 0, 0, 0]
  pos := 0
  lbt := 0
  lerrV := false
  lerrCode := 0
  phase := .idle
  resKind := 0
  resMm := 0
  resCode := 0
  draws := 0
  pending := []
  byteStep := .outside
  delivered := .nothing

end Sys2Proof.Machine
end

