-- ==== Sys2Proof/Machine/Ops.lean ====
section
/-! DEFINITION. The named operations over memory and registers that the meanings share: the RING, the cursors, the
latch, the frame decoder, the assembler transition, the poll, RESET, and the choice of the next requested step.

The block takes no exception and returns from none (60_exceptions.md R200, R208, R209), so there is no operation for
either here. -/

namespace Sys2Proof.Machine

/-- One operation after another: a fault or a refusal of the first is the outcome. -/
def andThen {α β : Type} (o : Res α) (k : α → Res β) : Res β :=
  match o with
  | .next a => k a
  | .fault e => .fault e
  | .refused e => .refused e

/-! The RING (20_memory.md R50). -/

/-- The byte at an index, none where nothing has written it. -/
def Memory.read : Memory → Nat → Option Byte
  | [], _ => none
  | (a, v) :: m, i => if a = i then some v else Memory.read m i

/-- The memory with one byte stored, indices kept strictly rising. -/
def Memory.write : Memory → Nat → Byte → Memory
  | [], i, v => [(i, v)]
  | (a, w) :: m, i, v =>
    if i < a then (i, v) :: (a, w) :: m
    else if i = a then (i, v) :: m
    else (a, w) :: Memory.write m i v

/-- The canonical form: indices strictly rising. An unlisted index holds no value, so no entry can equal it. -/
def Memory.wf (m : Memory) : Bool := decide (List.Pairwise (fun x y => x.1 < y.1) m)

/-- R15 `MemRead(i)`: `RING[i]` for `0 <= i < C`. -/
def ringRead (s : State) (i : Nat) : Res Byte :=
  if i < s.cfg.capacity then
    match Memory.read s.ring i with
    | some v => .next v
    | none => .fault .ringCellUnwritten
  else .fault .ringIndexOutOfRange

/-- R15 `MemWrite(i, v)`: `RING[i] <- v` for `0 <= i < C`. -/
def ringWrite (s : State) (i : Nat) (v : Byte) : Res State :=
  if i < s.cfg.capacity then .next { s with ring := Memory.write s.ring i v }
  else .fault .ringIndexOutOfRange

/-- R100: store at HEAD and advance HEAD, one atomic step (20_memory.md R59), with no look at TAIL (R101). -/
def storeReceived (b : Byte) (s : State) : Res State :=
  andThen (ringWrite s s.head b) (fun s1 => .next { s1 with head := nextIndex s1.cfg s1.head })

/-- R31 `AVAIL = (HSNAP - TAIL) mod C`. -/
def avail (s : State) : Nat := indexDistance s.cfg s.hsnap s.tail

/-- R31 `UNREAD = (HEAD - TAIL) mod C`. -/
def unread (s : State) : Nat := indexDistance s.cfg s.head s.tail

/-- R29 `empty`: `TAIL = HSNAP`. -/
def isEmpty (s : State) : Bool := s.tail == s.hsnap

/-- R103: the one read of HEAD per poll; enabled only in `PHASE = IDLE` (R176, R183). -/
def snapHead (s : State) : Res State :=
  match s.phase with
  | .idle => .next { s with hsnap := s.head, phase := .draining }
  | .draining => .refused .pollBusy

/-- R105: take the byte at TAIL and advance TAIL; enabled in `PHASE = DRAINING` with `TAIL != HSNAP` (R106). -/
def drainByte (s : State) : Res (Byte × State) :=
  match s.phase with
  | .idle => .refused .notDraining
  | .draining =>
    if isEmpty s then .refused .regionDrained
    else andThen (ringRead s s.tail) (fun b => .next (b, { s with tail := nextIndex s.cfg s.tail }))

/-! The last-error latch (R28, R160). -/

/-- R153: latch <- none; `LERR_CODE` keeps its bits. -/
def clearLatch (s : State) : State := { s with lerrV := false }

/-- R156: latch <- some(code). -/
def setLatch (code : Byte) (s : State) : State := { s with lerrV := true, lerrCode := code }

/-- R28: the latch value; `LERR_CODE` is not exposed when `LERR_V = 0`. -/
def latchValue (s : State) : Option Byte := if s.lerrV then some s.lerrCode else none

/-! The decoder (R159). -/

/-- R153 to R155: a Measurement of `F[6..9]`, latch <- none. -/
def takeMeasurement (f : Frame) (s : State) : Option Result × State :=
  (some (.measurement (bcd32 (payload f))), clearLatch s)

/-- R156, R157: an Error Report of `F[7]`, latch <- some(F[7]). -/
def takeErrorReport (f : Frame) (s : State) : Option Result × State :=
  (some (.errorReport (errorCode f)), setLatch (errorCode f) s)

/-- R143, R158: the frame is dropped; no result, no latch change, no signal. -/
def dropFrame (s : State) : Option Result × State := (none, s)

/-- R159 DECODE_FRAME: checksum, Measurement, Error Report, discard, in this order (R206). -/
def decodeFrame (f : Frame) (s : State) : Option Result × State :=
  if chkOk f then
    if isMeas f then takeMeasurement f s
    else if isErr f then takeErrorReport f s
    else dropFrame s
  else dropFrame s

/-! The assembler transition (R120), line by line. -/

/-- R121, line 1: a stale gap drops the partial frame. -/
def dropStale (t : Nat) (s : State) : State :=
  if isStale s.cfg s.pos s.lbt t then { s with pos := 0 } else s

/-- R122, line 2: stamp every byte, stored or discarded (90_conflicts.md C1). -/
def stampTime (t : Nat) (s : State) : State := { s with lbt := sampleTime s.cfg t }

/-- R124, line 4: `FBUF[POS] <- b ; POS <- POS + 1`. -/
def storeByte (b : Byte) (s : State) : Res State :=
  if h : s.pos.toNat < 13 then .next { s with fbuf := s.fbuf.set s.pos.toNat b h, pos := s.pos + 1 }
  else .fault .fbufIndexOutOfRange

/-- R125, line 5: at the 13th byte decode, then `POS <- 0` whatever the outcome. -/
def completeFrame (s : State) : Option Result × State :=
  if isFull s.pos then
    ((decodeFrame s.fbuf s).1, { (decodeFrame s.fbuf s).2 with pos := 0 })
  else (none, s)

/-- R120 ASM(b, t); R123 is the test between line 2 and line 4. Reads nothing but POS, LBT and FBUF (R127). -/
def assemble (b : Byte) (t : Nat) (s : State) : Res (Option Result × State) :=
  if isSearching (stampTime t (dropStale t s)).pos && !isHeader b then
    .next (none, stampTime t (dropStale t s))
  else andThen (storeByte b (stampTime t (dropStale t s))) (fun s1 => .next (completeFrame s1))

/-! The poll (R175 to R181). -/

/-- R179 END_POLL(x): the payload register that x does not name is unspecified, a free value (entry 8). -/
def finishPoll (x : Result) (s : State) : State :=
  match x with
  | .measurement mm =>
    { s with resKind := 1, resMm := mm, resCode := Config.freeResCode s.draws, draws := s.draws + 1,
             phase := .idle, delivered := .pollDone }
  | .errorReport code =>
    { s with resKind := 2, resCode := code, resMm := Config.freeResMm s.draws, draws := s.draws + 1,
             phase := .idle, delivered := .pollDone }

/-- R177, after ASM: a result ends the poll; without one the poll goes on (R180). -/
def afterByte (r : Option Result × State) : State :=
  match r.1 with
  | some x => finishPoll x r.2
  | none => { r.2 with delivered := .nothing }

/-- R177 POLL.STEP(t): DRAIN and ASM of the same byte, one atomic step. -/
def pollByte (t : Nat) (s : State) : Res State :=
  andThen (drainByte s) (fun d => andThen (assemble d.1 t d.2) (fun r => .next (afterByte r)))

/-- R178 POLL.END: NoData, both payload registers unspecified (entry 8). -/
def pollEmpty (s : State) : Res State :=
  match s.phase with
  | .idle => .refused .notDraining
  | .draining =>
    if isEmpty s then
      .next { s with resKind := 0, resMm := Config.freeResMm s.draws, resCode := Config.freeResCode s.draws,
                     draws := s.draws + 1, phase := .idle, delivered := .pollDone }
    else .refused .regionNotDrained

/-- R181, the loop, `fuel` byte steps at most: `t :: ts` are the samples still to come, the last one repeats (R95). -/
def pollLoop : Nat → Nat → List Nat → State → Res State
  | 0, _, _, s => pollEmpty s
  | fuel + 1, t, ts, s =>
    if isEmpty s then pollEmpty s
    else
      match pollByte t s with
      | .next s1 =>
        match s1.phase with
        | .idle => .next s1
        | .draining => pollLoop fuel (ts.headD t) ts.tail s1
      | .fault e => .fault e
      | .refused e => .refused e

/-- R181 POLL as one function, no RXWRITE interleaved; at most `AVAIL` byte steps (R182; entry 9). -/
def pollWhole (t : Nat) (ts : List Nat) (s : State) : Res State :=
  andThen (snapHead s) (fun s1 => pollLoop (avail s1) t ts s1)

/-! RESET (R187). -/

/-- R187: the specified registers take their reset values, the others are unspecified: free values, and a RING with no
written cell (entry 7). The configuration, the requests still pending and the draw counter are no state of the block. -/
def resetBlock (s : State) : State :=
  { s with
    head := 0, tail := 0, pos := 0, lerrV := false, phase := .idle, resKind := 0, byteStep := .outside,
    ring := [],
    fbuf := Config.freeFbuf s.draws,
    hsnap := Config.freeHsnap s.draws % 2 ^ s.cfg.wI,
    lbt := sampleTime s.cfg (Config.freeLbt s.draws),
    lerrCode := Config.freeLerrCode s.draws,
    resMm := Config.freeResMm s.draws,
    resCode := Config.freeResCode s.draws,
    draws := s.draws + 1 }

/-! Which requested step comes next (20_memory.md R58, 60_exceptions.md R207). -/

/-- The record requests a RESET. -/
def isResetRecord (c : Config) (r : Record) : Bool :=
  match decode c r with
  | .ok .reset => true
  | _ => false

/-- The requests of one instant: a RESET among them, taken before any other (R207), or else the first. -/
def takeFromInstant (c : Config) (q : Instant) : Option (Record × Instant) :=
  match q.find? (isResetRecord c) with
  | some r => some (r, q.erase r)
  | none =>
    match q with
    | [] => none
    | r :: rest => some (r, rest)

/-- The next requested step and the requests left after it. -/
def takeRequest (c : Config) : List Instant → Option (Record × List Instant)
  | [] => none
  | q :: rest =>
    match takeFromInstant c q with
    | some (r, []) => some (r, rest)
    | some (r, l :: left) => some (r, (l :: left) :: rest)
    | none => takeRequest c rest

/-- The state with the output of its last step set. -/
def deliver (d : Delivered) (s : State) : State := { s with delivered := d }

end Sys2Proof.Machine
end

