-- ==== Sys2Proof/Machine/Assembler.lean ====
section
/-! DEFINITION. The frame assembler: ASM (41_assembler.md), and the frame classes and DECODE_FRAME at its line 5. -/

namespace Sys2Proof.Machine

/-- ASM(b, t), R120, as a step of its own: its pattern has the bit PHASE at 1, so it is a step of a poll in progress
(entry 10). Delivers the optional result. -/
def execAsm (b : Byte) (t : Nat) (s : State) : Res State :=
  match s.phase with
  | .idle => .refused .notDraining
  | .draining => andThen (assemble b t s) (fun r => .next (deliver (.frameResult r.1) r.2))

/-- The frame operand of the operations that 43_decoder.md R159 performs at line 5 of ASM only: DECODE_FRAME and the
frame classes it selects among. -/
def frameAtCompletion : Instr → Option Frame
  | .decBadchk f => some f
  | .decMeas20 f => some f
  | .decMeas21 f => some f
  | .decMeas22 f => some f
  | .decErrEe f => some f
  | .decErrHeur f => some f
  | .decDiscard f => some f
  | .decodeFrame f => some f
  | .rxwrite _ => none
  | .poll _ _ => none
  | .getlasterror => none
  | .reset => none
  | .pollStart => none
  | .snap => none
  | .pollStep _ => none
  | .drain => none
  | .asm _ _ => none
  | .pollEnd => none
  | .endPoll _ => none
  | .chk _ => none
  | .bcd32 _ => none
  | .cmdLaserOn => none
  | .cmdLaserOff => none
  | .cmdQuickRead => none

/-- R159 `F = FBUF`: a poll is in progress, the assembler holds the first twelve bytes of the frame, and DRAIN has yielded
its last byte, which makes FBUF the frame. -/
abbrev AwaitsLastByte (f : Frame) (s : State) : Prop :=
  s.phase = .draining ∧ s.pos = 12 ∧ f.toList.take 12 = s.fbuf.toList.take 12 ∧ s.byteStep = .drained f[12]

/-- A request of a frame class or of DECODE_FRAME: the ASM step that completes that frame, sampling the clock as the
byte before did. Elsewhere the block has no such step (R159; entry 10). -/
def completeRequested (f : Frame) (s : State) : Res State :=
  if AwaitsLastByte f s then execAsm (cs f) s.lbt s else .refused .notInAsm

/-- The state in which the record of a frame is the frame the assembler is about to complete: twelve bytes in FBUF, the
last one drained, a poll in progress (entry 2). Other records need nothing. -/
def awaitFrame (r : Record) (s : State) : State :=
  match decode s.cfg r with
  | .error _ => s
  | .ok i =>
    match frameAtCompletion i with
    | none => s
    | some f =>
      { s with
        fbuf := f.set 12 (cs s.fbuf), pos := 12,
        hsnap := if s.phase = .draining then s.hsnap else s.tail, phase := .draining,
        byteStep := .drained (cs f) }

end Sys2Proof.Machine
end

