-- ==== Sys2Proof/Machine/Command.lean ====
section
/-! DEFINITION. The three transmit-side commands (30_encoding.md R92). The block never transmits and never decodes them
(R5); the collaborator that owns the step (60_exceptions.md R216) puts nine fixed bytes on its own line, with no effect
on any state of the block. Whether the write succeeds and what the sensor answers are outside (entry 13). -/

namespace Sys2Proof.Machine

/-- CMD.LASER_ON, R92: bytes `AA 00 01 BE 00 01 00 01 C1`. -/
def execCmdLaserOn (s : State) : Res State := .next (deliver (.sent laserOnBytes) s)

/-- CMD.LASER_OFF, R92: bytes `AA 00 01 BE 00 01 00 00 C0`. -/
def execCmdLaserOff (s : State) : Res State := .next (deliver (.sent laserOffBytes) s)

/-- CMD.QUICK_READ, R92: bytes `AA 00 00 22 00 01 00 00 23`. -/
def execCmdQuickRead (s : State) : Res State := .next (deliver (.sent quickReadBytes) s)

end Sys2Proof.Machine
end

