-- ==== Sys2Proof/Machine/Decoder.lean ====
section
/-! DEFINITION. The frame decoder: BCD32, DECODE_FRAME and the six classes of a checksum-valid frame
(43_decoder.md). Each delivers its optional result.

The meanings of DECODE_FRAME and of the classes are their effects at line 5 of ASM, the one place R159 performs them:
`step` runs a request of one only as the ASM step that completes its frame (`completeRequested`; entry 10). -/

namespace Sys2Proof.Machine

/-- BCD32(p), R150: a pure function; writes nothing and delivers the number. -/
def execBcd32 (p : Payload) (s : State) : Res State := .next (deliver (.bcdResult (bcd32 p)) s)

/-- DECODE_FRAME(F), R159. At line 5 of ASM (R159). -/
def execDecodeFrame (f : Frame) (s : State) : Res State :=
  .next (deliver (.frameResult (decodeFrame f s).1) (decodeFrame f s).2)

/-- DEC.MEAS20, R153. At line 5 of ASM (R159). -/
def execDecMeas20 (f : Frame) (s : State) : Res State :=
  .next (deliver (.frameResult (takeMeasurement f s).1) (takeMeasurement f s).2)

/-- DEC.MEAS21, R154. At line 5 of ASM (R159). -/
def execDecMeas21 (f : Frame) (s : State) : Res State :=
  .next (deliver (.frameResult (takeMeasurement f s).1) (takeMeasurement f s).2)

/-- DEC.MEAS22, R155. At line 5 of ASM (R159). -/
def execDecMeas22 (f : Frame) (s : State) : Res State :=
  .next (deliver (.frameResult (takeMeasurement f s).1) (takeMeasurement f s).2)

/-- DEC.ERR_EE, R156. At line 5 of ASM (R159). -/
def execDecErrEe (f : Frame) (s : State) : Res State :=
  .next (deliver (.frameResult (takeErrorReport f s).1) (takeErrorReport f s).2)

/-- DEC.ERR_HEUR, R157. At line 5 of ASM (R159). -/
def execDecErrHeur (f : Frame) (s : State) : Res State :=
  .next (deliver (.frameResult (takeErrorReport f s).1) (takeErrorReport f s).2)

/-- DEC.DISCARD, R158. -/
def execDecDiscard (_f : Frame) (s : State) : Res State :=
  .next (deliver (.frameResult (dropFrame s).1) (dropFrame s).2)

end Sys2Proof.Machine
end

