-- ==== Sys2Proof/Machine/Poll.lean ====
section
/-! DEFINITION. The poll entry point and the host operations: POLL, POLL.START, POLL.STEP, POLL.END, END_POLL,
GETLASTERROR, RESET (44_poll.md). -/

namespace Sys2Proof.Machine

/-- POLL, R175, in the big-step form of R181: from `PHASE = IDLE` to its end, with no RXWRITE between (entry 9). -/
def execPoll (t : Nat) (ts : List Nat) (s : State) : Res State := pollWhole t ts s

/-- POLL.START, R176: performs SNAP; RES_* keep the previous poll's result. -/
def execPollStart (s : State) : Res State :=
  andThen (snapHead s) (fun s1 => .next (deliver .nothing s1))

/-- POLL.STEP(t), R177. -/
def execPollStep (t : Nat) (s : State) : Res State := pollByte t s

/-- POLL.END, R178. -/
def execPollEnd (s : State) : Res State := pollEmpty s

/-- END_POLL(x), R179, as a step of its own: its pattern has the bit PHASE at 1 (entry 10). -/
def execEndPoll (x : Result) (s : State) : Res State :=
  match s.phase with
  | .idle => .refused .notDraining
  | .draining => .next (finishPoll x s)

/-- GETLASTERROR, R185: always enabled, reads the latch and writes nothing. -/
def execGetlasterror (s : State) : Res State := .next (deliver (.latch (latchValue s)) s)

/-- RESET, R187: always enabled; a poll in progress is abandoned with no `poll_done`. -/
def execReset (s : State) : Res State := .next (deliver .nothing (resetBlock s))

end Sys2Proof.Machine
end

