-- ==== Sys2Proof/Machine/Ring.lean ====
section
/-! DEFINITION. The cursor pair and the ring reader: RXWRITE, SNAP, DRAIN (40_ring.md). -/

namespace Sys2Proof.Machine

/-- RXWRITE(b), R100: always enabled. -/
def execRxwrite (b : Byte) (s : State) : Res State :=
  andThen (storeReceived b s) (fun s1 => .next (deliver .nothing s1))

/-- SNAP, R103. -/
def execSnap (s : State) : Res State :=
  andThen (snapHead s) (fun s1 => .next (deliver .nothing s1))

/-- DRAIN, R105: delivers the byte taken. -/
def execDrain (s : State) : Res State :=
  andThen (drainByte s) (fun d => .next (deliver (.byte d.1) d.2))

end Sys2Proof.Machine
end

