-- ==== Sys2Proof/Machine/Validator.lean ====
section
/-! DEFINITION. The frame validator: CHK and DEC.BADCHK (42_validator.md). -/

namespace Sys2Proof.Machine

/-- CHK(F), R140: a pure function; writes nothing and delivers its truth value. -/
def execChk (f : Frame) (s : State) : Res State := .next (deliver (.chkResult (chkOk f)) s)

/-- DEC.BADCHK, R143: nothing happens, no result. -/
def execDecBadchk (_f : Frame) (s : State) : Res State :=
  .next (deliver (.frameResult (dropFrame s).1) (dropFrame s).2)

end Sys2Proof.Machine
end

