-- ==== Sys2Proof/Machine/Dispatch.lean ====
section
/-! DEFINITION. The dispatch: one arm per row of opcode_table.json. -/

namespace Sys2Proof.Machine

def exec (i : Instr) (s : State) : Host.Outcome State Fault Refusal :=
  match i with
  | .decBadchk f => Sys2Proof.Machine.execDecBadchk f s
  | .decMeas20 f => Sys2Proof.Machine.execDecMeas20 f s
  | .decMeas21 f => Sys2Proof.Machine.execDecMeas21 f s
  | .decMeas22 f => Sys2Proof.Machine.execDecMeas22 f s
  | .decErrEe f => Sys2Proof.Machine.execDecErrEe f s
  | .decErrHeur f => Sys2Proof.Machine.execDecErrHeur f s
  | .decDiscard f => Sys2Proof.Machine.execDecDiscard f s
  | .rxwrite b => Sys2Proof.Machine.execRxwrite b s
  | .poll t ts => Sys2Proof.Machine.execPoll t ts s
  | .getlasterror => Sys2Proof.Machine.execGetlasterror s
  | .reset => Sys2Proof.Machine.execReset s
  | .pollStart => Sys2Proof.Machine.execPollStart s
  | .snap => Sys2Proof.Machine.execSnap s
  | .pollStep t => Sys2Proof.Machine.execPollStep t s
  | .drain => Sys2Proof.Machine.execDrain s
  | .asm b t => Sys2Proof.Machine.execAsm b t s
  | .pollEnd => Sys2Proof.Machine.execPollEnd s
  | .endPoll x => Sys2Proof.Machine.execEndPoll x s
  | .chk f => Sys2Proof.Machine.execChk f s
  | .bcd32 p => Sys2Proof.Machine.execBcd32 p s
  | .decodeFrame f => Sys2Proof.Machine.execDecodeFrame f s
  | .cmdLaserOn => Sys2Proof.Machine.execCmdLaserOn s
  | .cmdLaserOff => Sys2Proof.Machine.execCmdLaserOff s
  | .cmdQuickRead => Sys2Proof.Machine.execCmdQuickRead s

end Sys2Proof.Machine
end

