-- ==== Sys2Proof/Machine/ByteStep.lean ====
section
/-! DEFINITION. A request run in its place: the parts of a byte step in the order of 44_poll.md R177, a frame class at line
5 of ASM (43_decoder.md R159), every other operation at once. -/

namespace Sys2Proof.Machine

/-- R177: DRAIN, then ASM of the byte it yields, then END_POLL of the result ASM returns, and no other step of the poll
before the byte step is over. The operations that are no part of a poll in progress are always in their place. -/
def inPlace : Instr → State → Bool
  | .drain, s => s.byteStep == .outside
  | .pollStep _, s => s.byteStep == .outside
  | .pollEnd, s => s.byteStep == .outside
  | .asm b _, s => s.byteStep == .drained b
  | .endPoll x, s => s.byteStep == .returned x
  | .decBadchk _, _ => true
  | .decMeas20 _, _ => true
  | .decMeas21 _, _ => true
  | .decMeas22 _, _ => true
  | .decErrEe _, _ => true
  | .decErrHeur _, _ => true
  | .decDiscard _, _ => true
  | .decodeFrame _, _ => true
  | .rxwrite _, _ => true
  | .poll _ _, _ => true
  | .getlasterror, _ => true
  | .reset, _ => true
  | .pollStart, _ => true
  | .snap, _ => true
  | .chk _, _ => true
  | .bcd32 _, _ => true
  | .cmdLaserOn, _ => true
  | .cmdLaserOff, _ => true
  | .cmdQuickRead, _ => true

/-- The operations that move a byte step on: DRAIN, ASM (a frame class inside it) and END_POLL. -/
def movesByteStep : Instr → Bool
  | .drain => true
  | .asm _ _ => true
  | .endPoll _ => true
  | .decBadchk _ => true
  | .decMeas20 _ => true
  | .decMeas21 _ => true
  | .decMeas22 _ => true
  | .decErrEe _ => true
  | .decErrHeur _ => true
  | .decDiscard _ => true
  | .decodeFrame _ => true
  | .rxwrite _ => false
  | .poll _ _ => false
  | .getlasterror => false
  | .reset => false
  | .pollStart => false
  | .snap => false
  | .pollStep _ => false
  | .pollEnd => false
  | .chk _ => false
  | .bcd32 _ => false
  | .cmdLaserOn => false
  | .cmdLaserOff => false
  | .cmdQuickRead => false

/-- R177: what one part hands to the next: the byte of DRAIN, the result of ASM; nothing is left after an ASM that
returned none, or after END_POLL. -/
def handOver : Delivered → ByteStep
  | .byte b => .drained b
  | .frameResult (some x) => .returned x
  | .frameResult none => .outside
  | .nothing => .outside
  | .chkResult _ => .outside
  | .bcdResult _ => .outside
  | .latch _ => .outside
  | .pollDone => .outside
  | .sent _ => .outside

/-- The byte step after an operation. -/
def moveByteStep (i : Instr) (s : State) : State :=
  if movesByteStep i then { s with byteStep := handOver s.delivered } else s

/-- The effect of a requested operation: a frame class and DECODE_FRAME as the ASM step that completes the frame (R159),
every other by its own meaning. -/
def perform (i : Instr) (s : State) : Res State :=
  match frameAtCompletion i with
  | none => exec i s
  | some f => completeRequested f s

/-- A requested operation, run in its place or refused (entry 10). -/
def runRequest (i : Instr) (s : State) : Res State :=
  if inPlace i s then andThen (perform i s) (fun u => .next (moveByteStep i u)) else .refused .notInByteStep

end Sys2Proof.Machine
end

