-- ==== Sys2Proof/Machine/Ports.lean ====
section
/-! DEFINITION. What the Host sees at the ports (10_state.md R41, 30_encoding.md R97), with nothing exposed that has no
meaning (R28, R33). -/

namespace Sys2Proof.Machine

/-- 00_scope.md R16: what a POLL returns. -/
inductive PollResult where
  | noData
  | measurement (mm : BitVec 28)
  | errorReport (code : Byte)
deriving DecidableEq, Repr

/-- R41 `busy` (= PHASE). -/
def busy (s : State) : Bool := s.phase == .draining

/-- R97: the POLL port's result; `RES_MM` only under kind 1, `RES_CODE` only under kind 2; kind 3 is never driven. -/
def pollResult (s : State) : Option PollResult :=
  if s.resKind = 0 then some .noData
  else if s.resKind = 1 then some (.measurement s.resMm)
  else if s.resKind = 2 then some (.errorReport s.resCode)
  else none

/-- R16: the value a result of ASM is returned as. -/
def resultValue : Result → PollResult
  | .measurement mm => .measurement mm
  | .errorReport code => .errorReport code

/-- R152: the document's distance in metres, where the poll returned a Measurement. -/
def pollMetres (s : State) : Option ℚ :=
  match pollResult s with
  | some (.measurement mm) => some (metres mm)
  | _ => none

end Sys2Proof.Machine
end

