-- ==== Sys2Proof/Machine/Step.lean ====
section
/-! DEFINITION. One step of the machine: the next requested step, decoded and run (20_memory.md R58, entry 2). -/

namespace Sys2Proof.Machine

/-- The next requested step (R207), decoded and executed, the parts of a byte step in their order (44_poll.md R177,
R179) and a frame class as the ASM step that completes its frame (43_decoder.md R159; entry 10). With nothing requested nothing happens: the block waits for
its ports (R231, R251; entry 16). -/
def step (s : State) : Host.Outcome State Fault Refusal :=
  match takeRequest s.cfg s.pending with
  | none => .next s
  | some (r, rest) =>
    match decode s.cfg r with
    | .error e => .refused (.undecodable e)
    | .ok i => runRequest i { s with pending := rest }

/-- The state with the instruction of a table word requested at an instant of its own before all others, so that the
very next step runs it (entry 2). The operands that the table gives no bits are 0. A receive frame is one whose first
twelve bytes the assembler already holds and whose last byte is drained. -/
def State.withFetchWord (s : State) (nbits w : Nat) : State :=
  { awaitFrame (tableRecord s.cfg nbits w) s with pending := [tableRecord s.cfg nbits w] :: s.pending }

end Sys2Proof.Machine
end

