-- ==== Sys2Proof/Safety.lean ====
section
/-! DEFINITION. What claims about the machine are stated in: the invariant of 10_state.md R38 and R39, the agreement of
two states up to what the spec calls unspecified (R38), and sequences of operations. -/

namespace Sys2Proof.Machine

/-- R34, R65: RING is in canonical form and lists indices below `C` only. -/
abbrev State.RingWf (s : State) : Prop := Memory.wf s.ring = true ∧ ∀ c ∈ s.ring, c.1 < s.cfg.capacity

/-- R39 I-1 and U13: the cursors are indices; HSNAP is one while a poll is in progress. -/
abbrev State.CursorsInRange (s : State) : Prop :=
  s.head < s.cfg.capacity ∧ s.tail < s.cfg.capacity ∧ (s.phase = .draining → s.hsnap < s.cfg.capacity)

/-- R39 I-2 and I-3, R24, R27: POS is 0..12, FBUF[0] is the header once a byte is accepted, LBT has `W_T` bits. -/
abbrev State.AssemblerInRange (s : State) : Prop :=
  s.pos.toNat ≤ 12 ∧ (s.pos ≠ 0 → s.fbuf[0] = 0xAA) ∧ s.lbt < 2 ^ s.cfg.wT

/-- A cell has been written since reset. -/
abbrev State.Written (s : State) (i : Nat) : Prop := (Memory.read s.ring i).isSome = true

/-- R38 (a): every cell is written, or HEAD has not wrapped yet, every cell below it is written, and the cursors are in
the order TAIL, HSNAP, HEAD. -/
abbrev State.UnreadIsWritten (s : State) : Prop :=
  (∀ i, i < s.cfg.capacity → s.Written i) ∨
    ((∀ i, i < s.head → s.Written i) ∧ s.tail ≤ s.head ∧
      (s.phase = .draining → s.tail ≤ s.hsnap ∧ s.hsnap ≤ s.head))

/-- 44_poll.md R177: a byte step requested in parts is under way during a poll only (entry 10). -/
abbrev State.ByteStepInPoll (s : State) : Prop := s.byteStep ≠ .outside → s.phase = .draining

/-- The invariant of every reachable state: R39 I-1, I-2, I-3, I-6 and R38 (a), under a configuration R9 allows, and the
byte step requested in parts inside a poll. -/
abbrev State.Inv (s : State) : Prop :=
  s.cfg.Valid ∧ s.RingWf ∧ s.CursorsInRange ∧ s.AssemblerInRange ∧ s.resKind ≠ 3 ∧ s.UnreadIsWritten ∧
    s.ByteStepInPoll

/-- R38 (b) to (f): two states agree on everything the block may depend on: FBUF below POS, LBT in Accumulating, HSNAP
during a poll, LERR_CODE under LERR_V, each payload register under its kind, and all else whole. -/
def State.Agree (s t : State) : Prop :=
  s.cfg = t.cfg ∧ s.ring = t.ring ∧ s.head = t.head ∧ s.tail = t.tail ∧ s.pos = t.pos ∧ s.phase = t.phase ∧
    s.lerrV = t.lerrV ∧ s.resKind = t.resKind ∧ s.pending = t.pending ∧ s.byteStep = t.byteStep ∧
    s.delivered = t.delivered ∧
    (∀ i : Fin 13, i.val < s.pos.toNat → s.fbuf[i] = t.fbuf[i]) ∧
    (s.pos ≠ 0 → s.lbt = t.lbt) ∧
    (s.phase = .draining → s.hsnap = t.hsnap) ∧
    (s.lerrV = true → s.lerrCode = t.lerrCode) ∧
    (s.resKind = 1 → s.resMm = t.resMm) ∧
    (s.resKind = 2 → s.resCode = t.resCode)

/-- Two outcomes agree: next states that agree, or the same stop. -/
def outcomesAgree : Res State → Res State → Prop
  | .next s, .next t => s.Agree t
  | .fault e, .fault e' => e = e'
  | .refused e, .refused e' => e = e'
  | _, _ => False

/-- Instructions one after another. -/
def execAll : List Instr → State → Res State
  | [], s => .next s
  | i :: is, s => andThen (exec i s) (execAll is)

/-- `n` steps of the machine. -/
def stepAll : Nat → State → Res State
  | 0, s => .next s
  | n + 1, s => andThen (step s) (stepAll n)

/-- The instruction that the next step takes from the requests. -/
def nextRequest (s : State) : Option Instr :=
  match takeRequest s.cfg s.pending with
  | none => none
  | some (r, _) => (decode s.cfg r).toOption

/-- R39 I-5, "ASM step": ASM, the byte step and the poll that perform it (R177, R181), and the request of a frame at its
completion. -/
def runsAsm : Instr → Bool
  | .asm _ _ => true
  | .pollStep _ => true
  | .poll _ _ => true
  | .decBadchk _ => true
  | .decMeas20 _ => true
  | .decMeas21 _ => true
  | .decMeas22 _ => true
  | .decErrEe _ => true
  | .decErrHeur _ => true
  | .decDiscard _ => true
  | .decodeFrame _ => true
  | .rxwrite _ => false
  | .getlasterror => false
  | .reset => false
  | .pollStart => false
  | .snap => false
  | .drain => false
  | .pollEnd => false
  | .endPoll _ => false
  | .chk _ => false
  | .bcd32 _ => false
  | .cmdLaserOn => false
  | .cmdLaserOff => false
  | .cmdQuickRead => false

/-- R39 I-5: the step from `s` to `u` ran ASM and classified a frame with the result `x`: it delivers the result, or ends
a poll with it. -/
abbrev Classified (s u : State) (x : Result) : Prop :=
  (nextRequest s).any runsAsm = true ∧
    (u.delivered = .frameResult (some x) ∨ (u.delivered = .pollDone ∧ pollResult u = some (resultValue x)))

/-- R175: `n` steps from `s` to `u` are one whole poll, from PHASE IDLE to the step that ends it, whatever the other
agents do between: the first step takes a request, PHASE is DRAINING after every step but the last, which delivers
`poll_done`. -/
abbrev WholePoll (n : Nat) (s u : State) : Prop :=
  0 < n ∧ (nextRequest s).isSome = true ∧ s.phase = .idle ∧ stepAll n s = .next u ∧ u.delivered = .pollDone ∧
    ∀ (k : Nat) (a : State), 0 < k → k < n → stepAll k s = .next a → a.phase = .draining

/-- Bytes with their clock samples handed to ASM one after another, with what each step delivers (R131). -/
def feedAsm : List (Byte × Nat) → State → Res (List Delivered × State)
  | [], s => .next ([], s)
  | (b, t) :: rest, s =>
    andThen (exec (.asm b t) s) (fun s1 =>
      andThen (feedAsm rest s1) (fun r => .next (s1.delivered :: r.1, r.2)))

/-- `n` DRAIN steps, with what each delivers (R107). -/
def drainAll : Nat → State → Res (List Delivered × State)
  | 0, s => .next ([], s)
  | n + 1, s =>
    andThen (exec .drain s) (fun s1 =>
      andThen (drainAll n s1) (fun r => .next (s1.delivered :: r.1, r.2)))

/-- The clock samples of the first `n` byte steps of `POLL @t,ts`: after the last one given, it repeats (R95). -/
def pollSamples : Nat → Nat → List Nat → List Nat
  | 0, _, _ => []
  | n + 1, t, ts => t :: pollSamples n (ts.headD t) ts.tail

/-- R121: the gap in the integers, modulo `2^W_T`, independent of how the machine computes it. -/
def gapOf (c : Config) (t lbt : Nat) : Int := ((t : Int) - (lbt : Int)) % ((2 ^ c.wT : Nat) : Int)

/-- R85: the operand of a Measurement, digit by digit, from the nibbles of bytes 6 to 9. -/
def bcdOf (a b c d : Byte) : Nat :=
  (a.toNat / 16) * 10000000 + (a.toNat % 16) * 1000000 + (b.toNat / 16) * 100000 + (b.toNat % 16) * 10000 +
    (c.toNat / 16) * 1000 + (c.toNat % 16) * 100 + (d.toNat / 16) * 10 + d.toNat % 16

/-- R140, R29 `chk_ok`: the eleven bytes written out. -/
def sumOf (f : Frame) : Nat :=
  f[1].toNat + f[2].toNat + f[3].toNat + f[4].toNat + f[5].toNat + f[6].toNat + f[7].toNat + f[8].toNat +
    f[9].toNat + f[10].toNat + f[11].toNat

end Sys2Proof.Machine
end

