-- ==== Sys2Proof/Certificates/Slice0/Obligations.lean ====
section
/-! DEFINITION. The statements for the provers: what the rules of spec/ say the machine does. -/

open Sys2Proof Sys2Proof.Machine

/-! Reset, the invariant, the whole machine. -/

/-- 10_state.md R39 and R38 (a), under R37: the state after reset meets the invariant. The registers R37 leaves
unspecified hold the model's zeros there (entry 5); the invariant does not rest on them but for LBT's width. -/
def Obligations.InvariantHoldsAtReset : Prop := State.reset.Inv

/-- 10_state.md R39 (I-1, I-2, I-3, I-6), R38 (a), 40_ring.md R108: every step keeps the invariant. -/
def Obligations.EveryStepKeepsTheInvariant : Prop :=
  ∀ s u : State, s.Inv → step s = .next u → u.Inv

/-- 60_exceptions.md R200, 10_state.md R38: from a state that meets the invariant no step faults, so no cell without a
value is ever read and no index is ever out of range. -/
def Obligations.NoStepFaultsUnderTheInvariant : Prop :=
  ∀ (s : State) (e : Fault), s.Inv → step s ≠ .fault e

/-- 10_state.md R38 (b) to (f): two states that differ only in what the spec calls unspecified take the same step, to
states that differ only so, and deliver the same. -/
def Obligations.UnspecifiedContentsNeverReachAResult : Prop :=
  ∀ s t : State, s.Agree t → outcomesAgree (step s) (step t)

/-- 44_poll.md R187, 10_state.md R37: RESET, in any state, gives the specified registers their reset values, delivers no
`poll_done`, and leaves the configuration and the environment's requests alone. That RING then holds no value anywhere is the model's
form of "unspecified" (entries 6 and 7). -/
def Obligations.ResetGivesTheResetValues : Prop :=
  ∀ s : State, ∃ u, exec .reset s = .next u ∧
    u.head = 0 ∧ u.tail = 0 ∧ u.pos = 0 ∧ u.lerrV = false ∧ u.phase = .idle ∧ u.resKind = 0 ∧
    u.byteStep = .outside ∧ (∀ i, Memory.read u.ring i = none) ∧ u.delivered = .nothing ∧ u.cfg = s.cfg ∧ u.pending = s.pending

/-- 10_state.md R37 (power-up is a RESET): whatever values RESET leaves in the unspecified registers, its state agrees
with the state after power-up on everything the block may depend on. -/
def Obligations.ResetAgreesWithPowerUp : Prop :=
  ∀ s u : State, s.cfg = Config.standard → exec .reset s = .next u →
    u.Agree { State.reset with pending := s.pending }

/-- 20_memory.md R60, 10_state.md R40: every piece of state is written by its owner's operations only. -/
def Obligations.EveryRegisterHasItsOnlyWriters : Prop :=
  ∀ (i : Instr) (s u : State), exec i s = .next u →
    u.cfg = s.cfg ∧ u.pending = s.pending ∧
    (match i with | .reset => True | _ => u.byteStep = s.byteStep) ∧
    (match i with | .rxwrite _ | .reset => True | _ => u.ring = s.ring ∧ u.head = s.head) ∧
    (match i with | .drain | .pollStep _ | .poll _ _ | .reset => True | _ => u.tail = s.tail) ∧
    (match i with | .snap | .pollStart | .poll _ _ | .reset => True | _ => u.hsnap = s.hsnap) ∧
    (match i with
      | .asm _ _ | .pollStep _ | .poll _ _ | .reset => True
      | _ => u.fbuf = s.fbuf ∧ u.pos = s.pos ∧ u.lbt = s.lbt) ∧
    (match i with
      | .snap | .pollStart | .pollStep _ | .poll _ _ | .pollEnd | .endPoll _ | .reset => True
      | _ => u.phase = s.phase) ∧
    (match i with
      | .pollStep _ | .poll _ _ | .pollEnd | .endPoll _ | .reset => True
      | _ => u.resKind = s.resKind ∧ u.resMm = s.resMm ∧ u.resCode = s.resCode) ∧
    (match i with
      | .asm _ _ | .pollStep _ | .poll _ _ | .decodeFrame _ | .decMeas20 _ | .decMeas21 _ | .decMeas22 _
      | .decErrEe _ | .decErrHeur _ | .reset => True
      | _ => u.lerrV = s.lerrV ∧ u.lerrCode = s.lerrCode)

/-! Encoding and the step. -/

/-- 30_encoding.md R75, R76, R93: decoding the record of a well-formed instruction gives the instruction back, whatever
its operands (the stream of records is the model's, entry 3). -/
def Obligations.DecodeOfEncodeIsTheInstruction : Prop :=
  ∀ (c : Config) (i : Instr), c.Valid → i.wellFormed c = true → decode c (encode c i) = .ok i

/-- 30_encoding.md R93: a record that decodes is the record of what it decodes to, and that is well formed
(entry 3). -/
def Obligations.EveryDecodedRecordIsAnEncoding : Prop :=
  ∀ (c : Config) (r : Record) (i : Instr), decode c r = .ok i → i.wellFormed c = true ∧ encode c i = r

/-- 30_encoding.md R87: the opcode map in priority order, read by the decoder from the masks of opcode_table.json. Every
frame that begins with 0xAA falls in exactly one class; R93: no row matches another first byte. -/
def Obligations.FramesDecodeByPriority : Prop :=
  ∀ (c : Config) (f : Frame),
    decode c (selFrame :: f.toList) =
      if f[0] ≠ 0xAA then .error .patternMismatch
      else if sumOf f % 256 ≠ f[12].toNat then .ok (.decBadchk f)
      else if f[3] = 0x20 then .ok (.decMeas20 f)
      else if f[3] = 0x21 then .ok (.decMeas21 f)
      else if f[3] = 0x22 then .ok (.decMeas22 f)
      else if f[3] = 0xEE then .ok (.decErrEe f)
      else if f[2] = 0x00 ∧ f[6] = 0x00 ∧ f[7].toNat < 0x20 then .ok (.decErrHeur f)
      else .ok (.decDiscard f)

/-- A few words: frame A and frame E of 95_test_vectors.md in the view of 30_encoding.md R76, the Quick Read command of
R92, and the pattern bits of RXWRITE and BCD32 (R93, R94). The bits are the spec's; which row of the table a width stands
for, and the 16 bits in which RXWRITE's 9 lie, are the model's choice (entry 17). -/
def Obligations.SpecWordsDecode : Prop :=
  decodeTableWord 104 0xAA00002000010001234500008A =
      some (.decMeas20 #v[0xAA, 0x00, 0x00, 0x20, 0x00, 0x01, 0x00, 0x01, 0x23, 0x45, 0x00, 0x00, 0x8A]) ∧
    decodeTableWord 104 0xAA0000EE0000000300000000F1 =
      some (.decErrEe #v[0xAA, 0x00, 0x00, 0xEE, 0x00, 0x00, 0x00, 0x03, 0x00, 0x00, 0x00, 0x00, 0xF1]) ∧
    decodeTableWord 72 0xAA0000220001000023 = some .cmdQuickRead ∧
    decodeTableWord 16 0x15A = some (.rxwrite 0x5A) ∧
    decodeTableWord 32 0x01234506 = some (.bcd32 #v[0x01, 0x23, 0x45, 0x06])

/-- 20_memory.md R58: a step runs the instruction that the next requested record decodes to, the request taken off,
and moves the byte step on that is requested in parts; a part out of its order is refused (44_poll.md R177, R179), a frame
class or DECODE_FRAME runs as the ASM step that completes its frame and is refused where there is none (43_decoder.md R159;
entry 10); a record that no row matches is refused by name; with nothing requested nothing happens (the model's choices, entries 2,
3 and 16). -/
def Obligations.StepRunsTheDecodedInstruction : Prop :=
  ∀ s : State,
    (∀ r rest i, takeRequest s.cfg s.pending = some (r, rest) → decode s.cfg r = .ok i →
      frameAtCompletion i = none →
      (inPlace i s = true →
        step s = andThen (exec i { s with pending := rest }) (fun u => .next (moveByteStep i u))) ∧
      (inPlace i s = false → step s = .refused .notInByteStep)) ∧
    (∀ r rest i f, takeRequest s.cfg s.pending = some (r, rest) → decode s.cfg r = .ok i →
      frameAtCompletion i = some f →
      (AwaitsLastByte f s →
        step s = andThen (exec (.asm f[12] s.lbt) { s with pending := rest }) (fun u => .next (moveByteStep i u))) ∧
      (¬ AwaitsLastByte f s → step s = .refused .notInAsm)) ∧
    (∀ r rest e, takeRequest s.cfg s.pending = some (r, rest) → decode s.cfg r = .error e →
      step s = .refused (.undecodable e)) ∧
    (takeRequest s.cfg s.pending = none → step s = .next s)

/-- 43_decoder.md R159, 30_encoding.md R87: the step that runs a requested frame class, or DECODE_FRAME, has the effect of
that instruction, with what the ASM step around it does: FBUF is the frame, POS is 0, and a result waits for END_POLL. That a frame can be requested,
and that the ASM step then samples the clock as the byte before did, are the model's choices (entry 10). -/
def Obligations.ARequestedFrameRunsInItsAsmStep : Prop :=
  ∀ (s : State) (r : Record) (rest : List Instant) (i : Instr) (f : Frame),
    takeRequest s.cfg s.pending = some (r, rest) → decode s.cfg r = .ok i → frameAtCompletion i = some f →
    AwaitsLastByte f s → s.lbt < 2 ^ s.cfg.wT →
    ∃ v, exec i { s with pending := rest } = .next v ∧
      step s = .next { v with fbuf := f, pos := 0, byteStep := handOver v.delivered }

/-- 10_state.md R39 (I-5): after any number of steps from a state with `LERR_V = 0` (the state after reset among them),
`LERR_V = 1` only if an earlier ASM step classified a frame as an Error Report, whose code the latch holds, and no
Measurement was classified since. -/
def Obligations.AnErrorLatchHasAnAsmStepBehindIt : Prop :=
  ∀ (s u : State) (n : Nat), s.lerrV = false → stepAll n s = .next u → u.lerrV = true →
    ∃ (m : Nat) (v w : State), m < n ∧ stepAll m s = .next v ∧ step v = .next w ∧
      Classified v w (.errorReport u.lerrCode) ∧
      ∀ (k : Nat) (a b : State) (mm : BitVec 28), m < k → k < n → stepAll k s = .next a → step a = .next b →
        ¬ Classified a b (.measurement mm)

/-- 44_poll.md R177: the parts of a byte step run in their order only: ASM of the byte that DRAIN yielded, END_POLL of the
result that ASM returned (R179), and no DRAIN, POLL.STEP or POLL.END before the byte step is over. That the parts can be
requested one by one is the model's choice (entry 10). -/
def Obligations.TheByteStepRunsInOrder : Prop :=
  ∀ s u : State, step s = .next u →
    (∀ b t, nextRequest s = some (.asm b t) → s.byteStep = .drained b) ∧
    (∀ x, nextRequest s = some (.endPoll x) → s.byteStep = .returned x ∧ u.byteStep = .outside) ∧
    (nextRequest s = some .drain → s.byteStep = .outside ∧ ∃ b, u.delivered = .byte b ∧ u.byteStep = .drained b) ∧
    (∀ t, nextRequest s = some (.pollStep t) → s.byteStep = .outside ∧ u.byteStep = .outside) ∧
    (nextRequest s = some .pollEnd → s.byteStep = .outside ∧ u.byteStep = .outside)

/-- 44_poll.md R179: in every run from a state with no byte step under way, a step runs END_POLL(x) only where an earlier
ASM step of the run returned x, and between the two no byte was drained and nothing reached the assembler. -/
def Obligations.EndPollFollowsTheAsmThatReturned : Prop :=
  ∀ (s v w : State) (n : Nat) (x : Result), s.byteStep = .outside → stepAll n s = .next v →
    nextRequest v = some (.endPoll x) → step v = .next w →
    ∃ (m : Nat) (a b : State), m < n ∧ stepAll m s = .next a ∧ step a = .next b ∧ Classified a b x ∧
      b.delivered = .frameResult (some x) ∧
      v.tail = b.tail ∧ v.pos = b.pos ∧ v.fbuf = b.fbuf ∧ v.lbt = b.lbt ∧ v.lerrV = b.lerrV ∧ v.lerrCode = b.lerrCode

/-- 44_poll.md R186: every whole poll, however its steps are requested and whatever the Receiver and the Host do between
them, leaves the latch in agreement with its result: none after a Measurement, the code after an Error Report, untouched
by NoData. -/
def Obligations.EveryWholePollAgreesWithTheLatch : Prop :=
  ∀ (n : Nat) (s u : State), s.Inv → WholePoll n s u →
    (pollResult u = some .noData → u.lerrV = s.lerrV ∧ u.lerrCode = s.lerrCode) ∧
    (∀ mm, pollResult u = some (.measurement mm) → u.lerrV = false) ∧
    (∀ code, pollResult u = some (.errorReport code) → u.lerrV = true ∧ u.lerrCode = code)

/-- 60_exceptions.md R207: a RESET requested at an instant is taken before any other pending step, and the others follow
it; without one the first request of the instant is taken (the order of the list is the model's, entry 15). -/
def Obligations.ResetIsTakenBeforeAnyOtherRequest : Prop :=
  ∀ (s : State) (r : Record) (q rest : List Record) (later : List Instant),
    s.pending = q :: later →
    (r ∈ q → decode s.cfg r = .ok .reset →
      step s = exec .reset { s with pending := if q.erase r = [] then later else q.erase r :: later }) ∧
    (q = r :: rest → (∀ x ∈ q, decode s.cfg x ≠ .ok .reset) →
      takeRequest s.cfg s.pending = some (r, if rest = [] then later else rest :: later))

/-! The ring (40_ring.md). -/

/-- 40_ring.md R100: RXWRITE stores the byte at HEAD and advances HEAD modulo C, in one step, in every PHASE, and
touches nothing else; every other cell reads as before. -/
def Obligations.RxwriteStoresAtHeadAndAdvances : Prop :=
  ∀ (b : Byte) (s : State), s.head < s.cfg.capacity →
    ∃ u, exec (.rxwrite b) s = .next u ∧
      u = { s with ring := u.ring, head := (s.head + 1) % s.cfg.capacity, delivered := .nothing } ∧
      Memory.read u.ring s.head = some b ∧
      ∀ i, i ≠ s.head → Memory.read u.ring i = Memory.read s.ring i

/-- 40_ring.md R101: RXWRITE does not look at TAIL: with any other TAIL it does the same. -/
def Obligations.RxwriteIgnoresTail : Prop :=
  ∀ (b : Byte) (s u : State) (x : Nat), exec (.rxwrite b) s = .next u →
    exec (.rxwrite b) { s with tail := x } = .next { u with tail := x }

/-- 40_ring.md R102 and 20_memory.md R51: `n` RXWRITEs take HEAD to `(h + n) mod C`, and while `n <= C` the bytes lie in
RING in the order received. -/
def Obligations.ReceivedBytesLieInOrder : Prop :=
  ∀ (bs : List Byte) (s : State), s.head < s.cfg.capacity →
    ∃ u, execAll (bs.map .rxwrite) s = .next u ∧
      u.head = (s.head + bs.length) % s.cfg.capacity ∧
      (bs.length ≤ s.cfg.capacity → ∀ j, j < bs.length →
        Memory.read u.ring ((s.head + j) % s.cfg.capacity) = bs[j]?) ∧
      u.tail = s.tail ∧ u.hsnap = s.hsnap ∧ u.phase = s.phase ∧ u.pos = s.pos ∧ u.fbuf = s.fbuf

/-- 40_ring.md R103, 44_poll.md R176: SNAP and POLL.START copy HEAD to HSNAP and enter DRAINING; nothing else changes. -/
def Obligations.SnapTakesTheHead : Prop :=
  ∀ s : State, s.phase = .idle →
    exec .snap s = .next { s with hsnap := s.head, phase := .draining, delivered := .nothing } ∧
    exec .pollStart s = .next { s with hsnap := s.head, phase := .draining, delivered := .nothing }

/-- 44_poll.md R183: a poll request while a poll is in progress has no step. SNAP is enabled in IDLE only
(40_ring.md R103); that it can be requested on its own is the model's choice (entry 10), and that it is then refused by
name is deduced from R103 (entry 11). -/
def Obligations.PollRequestWhileBusyIsRefused : Prop :=
  ∀ (s : State) (t : Nat) (ts : List Nat), s.phase = .draining →
    exec (.poll t ts) s = .refused .pollBusy ∧ exec .pollStart s = .refused .pollBusy ∧
    exec .snap s = .refused .pollBusy

/-- 40_ring.md R105, R106, 44_poll.md R177, R178: outside their enabling condition DRAIN, POLL.STEP and POLL.END do not
exist. That ASM and END_POLL can be requested on their own, and need PHASE DRAINING then, is the model's choice, after the
PHASE bit of their patterns (entry 10); that a step not enabled is refused by name is deduced (entry 11). -/
def Obligations.ConsumerStepsNeedTheirCondition : Prop :=
  ∀ (s : State) (b : Byte) (t : Nat) (x : Result),
    (s.phase = .idle →
      exec .drain s = .refused .notDraining ∧ exec (.asm b t) s = .refused .notDraining ∧
      exec (.pollStep t) s = .refused .notDraining ∧ exec .pollEnd s = .refused .notDraining ∧
      exec (.endPoll x) s = .refused .notDraining) ∧
    (s.phase = .draining → s.tail = s.hsnap →
      exec .drain s = .refused .regionDrained ∧ exec (.pollStep t) s = .refused .regionDrained) ∧
    (s.phase = .draining → s.tail ≠ s.hsnap → exec .pollEnd s = .refused .regionNotDrained)

/-- 40_ring.md R105: DRAIN takes the byte at TAIL and advances TAIL modulo C; nothing else changes. -/
def Obligations.DrainTakesTheByteAtTail : Prop :=
  ∀ (s : State) (b : Byte), s.phase = .draining → s.tail ≠ s.hsnap → s.tail < s.cfg.capacity →
    Memory.read s.ring s.tail = some b →
    exec .drain s = .next { s with tail := (s.tail + 1) % s.cfg.capacity, delivered := .byte b }

/-- 40_ring.md R107: the DRAINs of one poll yield the bytes from TAIL up to but excluding HSNAP, modulo C, in order, and
leave `TAIL = HSNAP`. -/
def Obligations.DrainsYieldTheUnreadBytesInOrder : Prop :=
  ∀ (s : State) (n : Nat), s.Inv → s.phase = .draining → n < s.cfg.capacity →
    (s.tail + n) % s.cfg.capacity = s.hsnap →
    ∃ ds, drainAll n s = .next (ds, { s with tail := s.hsnap, delivered := if n = 0 then s.delivered else ds.getLastD .nothing }) ∧
      ds.length = n ∧
      ∀ k, k < n → ∃ b, Memory.read s.ring ((s.tail + k) % s.cfg.capacity) = some b ∧ ds[k]? = some (.byte b)

/-- 20_memory.md R68: where `HEAD = TAIL` during a poll with bytes to drain, a RXWRITE before the DRAIN makes it return
the new byte, after it the old one; nothing faults. -/
def Obligations.RaceGivesTheOldOrTheNewByte : Prop :=
  ∀ (s : State) (old new : Byte), s.phase = .draining → s.tail ≠ s.hsnap → s.head = s.tail →
    s.tail < s.cfg.capacity → Memory.read s.ring s.tail = some old →
    (∃ u, execAll [.rxwrite new, .drain] s = .next u ∧ u.delivered = .byte new) ∧
    (∃ d u, exec .drain s = .next d ∧ d.delivered = .byte old ∧ exec (.rxwrite new) d = .next u)

/-- 44_poll.md R181: a RXWRITE that does not write the cell about to be drained commutes with a byte step of the poll.
That the two orders are equal in an unspecified RES_MM or RES_CODE too, and not only in what has a meaning, is the
model's: both draw the same free value (entry 8). -/
def Obligations.ReceptionCommutesWithTheByteStep : Prop :=
  ∀ (s : State) (b : Byte) (t : Nat), s.Inv → s.phase = .draining → s.tail ≠ s.hsnap → s.head ≠ s.tail →
    ∃ u v, execAll [.rxwrite b, .pollStep t] s = .next u ∧ execAll [.pollStep t, .rxwrite b] s = .next v ∧
      { u with delivered := .nothing } = { v with delivered := .nothing }

/-- 70_reset_and_hazards.md R241, 40_ring.md R104: `C` bytes stored from an empty region bring HEAD back to TAIL, and a
poll then sees nothing: all of them are lost. -/
def Obligations.AWholeRegionOfUnreadBytesIsLost : Prop :=
  ∀ (s : State) (bs : List Byte) (t : Nat) (ts : List Nat), s.head < s.cfg.capacity → s.head = s.tail →
    s.phase = .idle → bs.length = s.cfg.capacity →
    ∃ u v, execAll (bs.map .rxwrite) s = .next u ∧ u.head = u.tail ∧ exec (.poll t ts) u = .next v ∧
      pollResult v = some .noData ∧ v.tail = s.tail ∧ v.pos = s.pos ∧ v.lbt = s.lbt

/-! The assembler (41_assembler.md). -/

/-- 41_assembler.md R123, R126 (Searching): a byte that is not 0xAA is discarded, with only LBT stamped; 0xAA becomes
byte 0 of a candidate. -/
def Obligations.AsmSearchesForTheHeader : Prop :=
  ∀ (s : State) (b : Byte) (t : Nat), s.phase = .draining → s.pos = 0 → t < 2 ^ s.cfg.wT →
    exec (.asm b t) s =
      if b = 0xAA then
        .next { s with lbt := t, fbuf := s.fbuf.set 0 0xAA, pos := 1, delivered := .frameResult none }
      else .next { s with lbt := t, delivered := .frameResult none }

/-- 41_assembler.md R124, R126 (Accumulating, `POS` in 1..11, gap at most `T_STALE`): the byte is stored at `FBUF[POS]`
whatever it is, and POS advances by one. -/
def Obligations.AsmStoresInSequence : Prop :=
  ∀ (s : State) (b : Byte) (t : Nat), s.phase = .draining → 1 ≤ s.pos.toNat → s.pos.toNat ≤ 11 →
    t < 2 ^ s.cfg.wT → gapOf s.cfg t s.lbt ≤ s.cfg.tStale →
    exec (.asm b t) s =
      .next { s with lbt := t, fbuf := s.fbuf.setIfInBounds s.pos.toNat b, pos := s.pos + 1,
                     delivered := .frameResult none }

/-- 41_assembler.md R125, R126 (`POS = 12`, gap at most `T_STALE`): the thirteenth byte completes the frame, DECODE_FRAME
decides the result and the latch, and POS becomes 0 whatever the outcome. -/
def Obligations.AsmCompletesAtTheThirteenthByte : Prop :=
  ∀ (s : State) (b : Byte) (t : Nat), s.phase = .draining → s.pos = 12 → t < 2 ^ s.cfg.wT →
    gapOf s.cfg t s.lbt ≤ s.cfg.tStale →
    ∃ v, exec (.decodeFrame (s.fbuf.set 12 b)) s = .next v ∧
      exec (.asm b t) s = .next { v with lbt := t, fbuf := s.fbuf.set 12 b, pos := 0 }

/-- 41_assembler.md R121, R126 (Accumulating, gap above `T_STALE`): the partial frame is dropped, and the byte is judged
as one arriving in Searching. -/
def Obligations.AsmDropsAStaleFrame : Prop :=
  ∀ (s : State) (b : Byte) (t : Nat), s.phase = .draining → 1 ≤ s.pos.toNat → s.pos.toNat ≤ 12 →
    t < 2 ^ s.cfg.wT → (s.cfg.tStale : Int) < gapOf s.cfg t s.lbt →
    exec (.asm b t) s =
      if b = 0xAA then
        .next { s with lbt := t, fbuf := s.fbuf.set 0 0xAA, pos := 1, delivered := .frameResult none }
      else .next { s with lbt := t, pos := 0, delivered := .frameResult none }

/-- 41_assembler.md R127: the transition depends on POS, LBT, FBUF and the latch only (and on the configuration), and
changes nothing else. -/
def Obligations.AsmDependsOnTheAssemblerOnly : Prop :=
  ∀ (s s' u : State) (b : Byte) (t : Nat), s.phase = .draining → s'.phase = .draining → s.cfg = s'.cfg →
    s.pos = s'.pos → s.lbt = s'.lbt → s.fbuf = s'.fbuf → s.lerrV = s'.lerrV → s.lerrCode = s'.lerrCode →
    exec (.asm b t) s = .next u →
    exec (.asm b t) s' =
      .next { s' with pos := u.pos, lbt := u.lbt, fbuf := u.fbuf, lerrV := u.lerrV, lerrCode := u.lerrCode,
                      delivered := u.delivered }

/-- 41_assembler.md R129: in Searching, LBT is unobservable. -/
def Obligations.LbtIsUnobservableInSearching : Prop :=
  ∀ (s : State) (x : Nat) (b : Byte) (t : Nat), s.pos = 0 →
    exec (.asm b t) { s with lbt := x } = exec (.asm b t) s

/-- 41_assembler.md R131, the resynchronization guarantee: from Searching, or with the first byte after a stale gap,
bytes that are not 0xAA and then a frame whose bytes follow each other within `T_STALE` give nothing but the frame's own
outcome, with POS back at 0; and POS is 0 after each of the leading bytes. -/
def Obligations.AFrameAfterGarbageIsDecoded : Prop :=
  ∀ (s : State) (gs : List (Byte × Nat)) (f : Frame) (ts : Vector Nat 13),
    s.phase = .draining → s.pos.toNat ≤ 12 →
    (s.pos = 0 ∨
      ∀ x ∈ (gs ++ f.toList.zip ts.toList).head?, (s.cfg.tStale : Int) < gapOf s.cfg x.2 s.lbt) →
    (∀ g ∈ gs, g.1 ≠ 0xAA) → f[0] = 0xAA →
    (∀ k : Fin 12, gapOf s.cfg ts[k.val + 1] ts[k.val] ≤ s.cfg.tStale) →
    (∀ k, 0 < k → k ≤ gs.length → ∃ w, feedAsm (gs.take k) s =
      .next (List.replicate k (.frameResult none), w) ∧ w.pos = 0) ∧
    ∃ u v, feedAsm (gs ++ f.toList.zip ts.toList) s =
        .next (List.replicate (gs.length + 12) (.frameResult none) ++ [u.delivered], u) ∧
      exec (.decodeFrame f) s = .next v ∧ u.delivered = v.delivered ∧ u.lerrV = v.lerrV ∧
      u.lerrCode = v.lerrCode ∧ u.pos = 0 ∧ u.fbuf = f

/-! The validator and the decoder (42_validator.md, 43_decoder.md). -/

/-- 42_validator.md R140: CHK answers whether the sum of bytes 1 to 11 modulo 256 is byte 12, and writes nothing. -/
def Obligations.ChkComparesTheSumWithByteTwelve : Prop :=
  ∀ (f : Frame) (s : State),
    exec (.chk f) s = .next { s with delivered := .chkResult (decide (sumOf f % 256 = f[12].toNat)) }

/-- 42_validator.md R145: a change of exactly one of the bytes 1 to 12 of a valid frame makes CHK false; a change of
byte 0 alone is not seen (R142). -/
def Obligations.ChkDetectsOneChangedByte : Prop :=
  ∀ (f : Frame) (s : State) (k : Fin 13) (b : Byte), b ≠ f[k] →
    exec (.chk f) s = .next { s with delivered := .chkResult true } →
    exec (.chk (f.set k b)) s = .next { s with delivered := .chkResult (decide (k.val = 0)) }

/-- 42_validator.md R141: any permutation of the bytes 1 to 11 has the same checksum. -/
def Obligations.ChkIsBlindToOrder : Prop :=
  ∀ (f g : Frame) (s : State), ((f.toList.drop 1).take 11).Perm ((g.toList.drop 1).take 11) → f[12] = g[12] →
    exec (.chk f) s = exec (.chk g) s

/-- 43_decoder.md R150, 30_encoding.md R85: BCD32 is the eight nibbles at their decimal weights, most significant first;
it writes nothing, and R151: it is at most 166 666 665, so 28 bits hold it. -/
def Obligations.BcdIsTheSumOfWeightedNibbles : Prop :=
  ∀ (p : Payload) (s : State), ∃ v : BitVec 28,
    exec (.bcd32 p) s = .next { s with delivered := .bcdResult v } ∧
    v.toNat = bcdOf p[0] p[1] p[2] p[3] ∧ v.toNat ≤ 166666665

/-- 43_decoder.md R151: on decimal nibbles BCD32 is one-to-one and at most 99 999 999. -/
def Obligations.BcdIsOneToOneOnDecimalDigits : Prop :=
  ∀ (p q : Payload) (s : State) (v : BitVec 28),
    (∀ k : Fin 4, p[k].toNat / 16 ≤ 9 ∧ p[k].toNat % 16 ≤ 9) →
    (∀ k : Fin 4, q[k].toNat / 16 ≤ 9 ∧ q[k].toNat % 16 ≤ 9) →
    exec (.bcd32 p) s = .next { s with delivered := .bcdResult v } →
    v.toNat ≤ 99999999 ∧ (exec (.bcd32 q) s = .next { s with delivered := .bcdResult v } → p = q)

/-- 43_decoder.md R159: DECODE_FRAME: checksum, then Measurement, then Error Report, then discard; it writes the latch
and nothing else. -/
def Obligations.DecodeFrameDecidesInOrder : Prop :=
  ∀ (f : Frame) (s : State),
    exec (.decodeFrame f) s =
      if sumOf f % 256 ≠ f[12].toNat then .next { s with delivered := .frameResult none }
      else if f[3] = 0x20 ∨ f[3] = 0x21 ∨ f[3] = 0x22 then
        .next { s with lerrV := false,
                       delivered := .frameResult (some (.measurement (BitVec.ofNat 28 (bcdOf f[6] f[7] f[8] f[9])))) }
      else if f[3] = 0xEE ∨ (f[2] = 0x00 ∧ f[6] = 0x00 ∧ f[7].toNat < 0x20) then
        .next { s with lerrV := true, lerrCode := f[7], delivered := .frameResult (some (.errorReport f[7])) }
      else .next { s with delivered := .frameResult none }

/-- 43_decoder.md R153, R154, R155, R163: the three Measurement classes deliver the millimetres of bytes 6 to 9 and set
the latch to none; LERR_CODE keeps its bits. -/
def Obligations.MeasurementFramesGiveMillimetres : Prop :=
  ∀ (f : Frame) (s : State), ∃ mm : BitVec 28, mm.toNat = bcdOf f[6] f[7] f[8] f[9] ∧
    exec (.decMeas20 f) s = .next { s with lerrV := false, delivered := .frameResult (some (.measurement mm)) } ∧
    exec (.decMeas21 f) s = .next { s with lerrV := false, delivered := .frameResult (some (.measurement mm)) } ∧
    exec (.decMeas22 f) s = .next { s with lerrV := false, delivered := .frameResult (some (.measurement mm)) }

/-- 43_decoder.md R156, R157: the two Error Report classes deliver byte 7 whole and set the latch to it. -/
def Obligations.ErrorFramesReportByteSeven : Prop :=
  ∀ (f : Frame) (s : State),
    exec (.decErrEe f) s =
      .next { s with lerrV := true, lerrCode := f[7], delivered := .frameResult (some (.errorReport f[7])) } ∧
    exec (.decErrHeur f) s =
      .next { s with lerrV := true, lerrCode := f[7], delivered := .frameResult (some (.errorReport f[7])) }

/-- 42_validator.md R143, 43_decoder.md R158: a frame with a bad checksum or of another shape gives no result and
changes nothing. -/
def Obligations.DroppedFramesChangeNothing : Prop :=
  ∀ (f : Frame) (s : State),
    exec (.decBadchk f) s = .next { s with delivered := .frameResult none } ∧
    exec (.decDiscard f) s = .next { s with delivered := .frameResult none }

/-- 30_encoding.md R87, 43_decoder.md R159: the instruction a receive frame decodes to does what DECODE_FRAME does on
it. -/
def Obligations.TheDecodedClassDoesWhatDecodeFrameDoes : Prop :=
  ∀ (c : Config) (f : Frame) (i : Instr) (s : State), decode c (selFrame :: f.toList) = .ok i →
    exec i s = exec (.decodeFrame f) s

/-- 43_decoder.md R164: bytes 0, 1, 4, 5, 10 and 11 reach the outcome only through CHK. -/
def Obligations.UnusedFieldsReachOnlyTheChecksum : Prop :=
  ∀ (f g : Frame) (s : State), exec (.chk f) s = exec (.chk g) s → f[2] = g[2] → f[3] = g[3] → f[6] = g[6] →
    f[7] = g[7] → f[8] = g[8] → f[9] = g[9] → exec (.decodeFrame f) s = exec (.decodeFrame g) s

/-- 43_decoder.md R160: after an ASM step, the latch is none if it returned a Measurement, the code if it returned an
Error Report, and unchanged if it returned nothing. -/
def Obligations.LatchFollowsTheDecodedFrame : Prop :=
  ∀ (s u : State) (b : Byte) (t : Nat), exec (.asm b t) s = .next u →
    ∃ r, u.delivered = .frameResult r ∧
      (r = none → u.lerrV = s.lerrV ∧ u.lerrCode = s.lerrCode) ∧
      (∀ mm, r = some (.measurement mm) → u.lerrV = false) ∧
      (∀ code, r = some (.errorReport code) → u.lerrV = true ∧ u.lerrCode = code)

/-! The poll and the host operations (44_poll.md). -/

/-- 44_poll.md R177: POLL.STEP is DRAIN, then ASM of the byte it yields, then END_POLL if ASM returned a result; with no
result the poll goes on (R180). That the two are equal in an unspecified RES_MM or RES_CODE too is the model's: both draw
the same free value (entry 8). -/
def Obligations.PollStepIsDrainThenAsm : Prop :=
  ∀ (s : State) (b : Byte) (t : Nat), s.phase = .draining → s.tail ≠ s.hsnap → s.tail < s.cfg.capacity →
    Memory.read s.ring s.tail = some b → s.pos.toNat ≤ 12 →
    ∃ d a r u, exec .drain s = .next d ∧ d.delivered = .byte b ∧
      exec (.asm b t) d = .next a ∧ a.delivered = .frameResult r ∧
      exec (.pollStep t) s = .next u ∧
      (match r with
        | none => u = { a with delivered := .nothing }
        | some x => exec (.endPoll x) a = .next u)

/-- 44_poll.md R178: POLL.END, at `TAIL = HSNAP`, ends the poll with NoData; only RES_* and PHASE change (and the
model's draw counter, entry 8). -/
def Obligations.PollEndGivesNoData : Prop :=
  ∀ s : State, s.phase = .draining → s.tail = s.hsnap →
    ∃ u, exec .pollEnd s = .next u ∧
      u = { s with resKind := 0, resMm := u.resMm, resCode := u.resCode, draws := u.draws, phase := .idle,
                   delivered := .pollDone } ∧
      pollResult u = some .noData

/-- 44_poll.md R179, 30_encoding.md R97: END_POLL(x) puts x on the POLL port and ends the poll; only RES_* and PHASE
change (and the model's draw counter, entry 8). -/
def Obligations.EndPollDeliversTheResult : Prop :=
  ∀ (s : State) (x : Result), s.phase = .draining →
    ∃ u, exec (.endPoll x) s = .next u ∧
      u = { s with resKind := u.resKind, resMm := u.resMm, resCode := u.resCode, draws := u.draws, phase := .idle,
                   delivered := .pollDone } ∧
      pollResult u = some (resultValue x) ∧
      (∀ mm, x = .measurement mm → u.resKind = 1 ∧ u.resMm = mm) ∧
      (∀ code, x = .errorReport code → u.resKind = 2 ∧ u.resCode = code)

/-- 43_decoder.md R152: a Measurement of `mm` is `mm / 1000` metres, exactly. -/
def Obligations.MetresAreMillimetresOverAThousand : Prop :=
  ∀ (s : State) (mm : BitVec 28), s.phase = .draining →
    ∃ u, exec (.endPoll (.measurement mm)) s = .next u ∧ pollMetres u = some ((mm.toNat : ℚ) / 1000)

/-- 44_poll.md R182: a byte step lowers AVAIL by one, and a RXWRITE in between does not change it. -/
def Obligations.EachByteStepLowersAvailByOne : Prop :=
  ∀ (s : State) (b : Byte) (t : Nat), s.Inv → s.phase = .draining → s.tail ≠ s.hsnap →
    (∃ u, exec (.pollStep t) s = .next u ∧
      ((u.hsnap : Int) - u.tail) % s.cfg.capacity + 1 = ((s.hsnap : Int) - s.tail) % s.cfg.capacity) ∧
    (∃ u, exec (.rxwrite b) s = .next u ∧
      ((u.hsnap : Int) - u.tail) % s.cfg.capacity = ((s.hsnap : Int) - s.tail) % s.cfg.capacity)

/-- 44_poll.md R182, R175: every POLL in the one-step form of R181, into which no RXWRITE falls (entry 9), ends with one
of the three results, having read HEAD once and left RING and HEAD alone; NoData means the snapshot was drained. -/
def Obligations.EveryPollEnds : Prop :=
  ∀ (s : State) (t : Nat) (ts : List Nat), s.Inv → s.phase = .idle →
    ∃ u x, exec (.poll t ts) s = .next u ∧ u.phase = .idle ∧ u.delivered = .pollDone ∧ pollResult u = some x ∧
      u.hsnap = s.head ∧ u.head = s.head ∧ u.ring = s.ring ∧ (x = .noData → u.tail = s.head) ∧
      (x ≠ .noData → u.pos = 0)

/-- 44_poll.md R181: POLL as one function is POLL.START, at most AVAIL POLL.STEPs with the clock samples given, and
POLL.END unless the last POLL.STEP returned a result; the last sample repeats (30_encoding.md R95). POLL as one step is
the model's reading (entry 9); that the two forms are equal in an unspecified RES_MM or RES_CODE too is the model's: both
draw the same free value (entry 8). -/
def Obligations.PollIsItsMicroSteps : Prop :=
  ∀ (s : State) (t : Nat) (ts : List Nat), s.Inv → s.phase = .idle →
    ∃ (n : Nat) (u : State), exec (.poll t ts) s = .next u ∧ (n : Int) ≤ ((s.head : Int) - s.tail) % s.cfg.capacity ∧
      (execAll (.pollStart :: (pollSamples n t ts).map .pollStep ++ [.pollEnd]) s = .next u ∨
        (0 < n ∧ execAll (.pollStart :: (pollSamples n t ts).map .pollStep) s = .next u))

/-- 44_poll.md R178: a poll with `TAIL = HEAD` is NoData and changes HSNAP, PHASE and RES_* only (and the model's draw
counter, entry 8). -/
def Obligations.PollOfAnEmptyRegionIsNoData : Prop :=
  ∀ (s : State) (t : Nat) (ts : List Nat), s.phase = .idle → s.tail = s.head →
    ∃ u, exec (.poll t ts) s = .next u ∧ pollResult u = some .noData ∧
      u = { s with hsnap := s.head, resKind := 0, resMm := u.resMm, resCode := u.resCode, draws := u.draws,
                   delivered := .pollDone }

/-- 44_poll.md R186, of the POLL in the one-step form of R181 (entry 9): the latch agrees with its result: none after a Measurement, the code after an Error
Report, untouched by NoData. -/
def Obligations.LatchAgreesWithThePollResult : Prop :=
  ∀ (s u : State) (t : Nat) (ts : List Nat), s.phase = .idle → exec (.poll t ts) s = .next u →
    (pollResult u = some .noData → u.lerrV = s.lerrV ∧ u.lerrCode = s.lerrCode) ∧
    (∀ mm, pollResult u = some (.measurement mm) → u.lerrV = false) ∧
    (∀ code, pollResult u = some (.errorReport code) → u.lerrV = true ∧ u.lerrCode = code)

/-- 44_poll.md R185: GETLASTERROR returns the latch, in either PHASE, and writes nothing. -/
def Obligations.GetLastErrorReadsTheLatch : Prop :=
  ∀ s : State,
    exec .getlasterror s =
      .next { s with delivered := .latch (if s.lerrV = true then some s.lerrCode else none) }

/-! The transmit-side commands (30_encoding.md R92). -/

/-- 30_encoding.md R92, 60_exceptions.md R216: a command changes no state of the block; the nine bytes are delivered to
the transmit side (the model's choice, entry 13). -/
def Obligations.CommandsLeaveTheBlockAlone : Prop :=
  ∀ s : State,
    exec .cmdLaserOn s =
      .next { s with delivered := .sent [0xAA, 0x00, 0x01, 0xBE, 0x00, 0x01, 0x00, 0x01, 0xC1] } ∧
    exec .cmdLaserOff s =
      .next { s with delivered := .sent [0xAA, 0x00, 0x01, 0xBE, 0x00, 0x01, 0x00, 0x00, 0xC0] } ∧
    exec .cmdQuickRead s =
      .next { s with delivered := .sent [0xAA, 0x00, 0x00, 0x22, 0x00, 0x01, 0x00, 0x00, 0x23] }
end

