-- ==== Sys2Proof/Laws/State.lean ====
section
/-! SUPPORT. One lemma per field per named update of the state, true by rfl: no later proof unfolds a record update. -/

namespace Sys2Proof.Machine


@[simp] theorem deliver_cfg (d : Delivered) (s : State) : (deliver d s).cfg = s.cfg := rfl
@[simp] theorem deliver_ring (d : Delivered) (s : State) : (deliver d s).ring = s.ring := rfl
@[simp] theorem deliver_head (d : Delivered) (s : State) : (deliver d s).head = s.head := rfl
@[simp] theorem deliver_tail (d : Delivered) (s : State) : (deliver d s).tail = s.tail := rfl
@[simp] theorem deliver_hsnap (d : Delivered) (s : State) : (deliver d s).hsnap = s.hsnap := rfl
@[simp] theorem deliver_fbuf (d : Delivered) (s : State) : (deliver d s).fbuf = s.fbuf := rfl
@[simp] theorem deliver_pos (d : Delivered) (s : State) : (deliver d s).pos = s.pos := rfl
@[simp] theorem deliver_lbt (d : Delivered) (s : State) : (deliver d s).lbt = s.lbt := rfl
@[simp] theorem deliver_lerrV (d : Delivered) (s : State) : (deliver d s).lerrV = s.lerrV := rfl
@[simp] theorem deliver_lerrCode (d : Delivered) (s : State) : (deliver d s).lerrCode = s.lerrCode := rfl
@[simp] theorem deliver_phase (d : Delivered) (s : State) : (deliver d s).phase = s.phase := rfl
@[simp] theorem deliver_resKind (d : Delivered) (s : State) : (deliver d s).resKind = s.resKind := rfl
@[simp] theorem deliver_resMm (d : Delivered) (s : State) : (deliver d s).resMm = s.resMm := rfl
@[simp] theorem deliver_resCode (d : Delivered) (s : State) : (deliver d s).resCode = s.resCode := rfl
@[simp] theorem deliver_draws (d : Delivered) (s : State) : (deliver d s).draws = s.draws := rfl
@[simp] theorem deliver_pending (d : Delivered) (s : State) : (deliver d s).pending = s.pending := rfl
@[simp] theorem deliver_byteStep (d : Delivered) (s : State) : (deliver d s).byteStep = s.byteStep := rfl
@[simp] theorem deliver_delivered (d : Delivered) (s : State) : (deliver d s).delivered = d := rfl

@[simp] theorem clearLatch_cfg (s : State) : (clearLatch s).cfg = s.cfg := rfl
@[simp] theorem clearLatch_ring (s : State) : (clearLatch s).ring = s.ring := rfl
@[simp] theorem clearLatch_head (s : State) : (clearLatch s).head = s.head := rfl
@[simp] theorem clearLatch_tail (s : State) : (clearLatch s).tail = s.tail := rfl
@[simp] theorem clearLatch_hsnap (s : State) : (clearLatch s).hsnap = s.hsnap := rfl
@[simp] theorem clearLatch_fbuf (s : State) : (clearLatch s).fbuf = s.fbuf := rfl
@[simp] theorem clearLatch_pos (s : State) : (clearLatch s).pos = s.pos := rfl
@[simp] theorem clearLatch_lbt (s : State) : (clearLatch s).lbt = s.lbt := rfl
@[simp] theorem clearLatch_lerrV (s : State) : (clearLatch s).lerrV = false := rfl
@[simp] theorem clearLatch_lerrCode (s : State) : (clearLatch s).lerrCode = s.lerrCode := rfl
@[simp] theorem clearLatch_phase (s : State) : (clearLatch s).phase = s.phase := rfl
@[simp] theorem clearLatch_resKind (s : State) : (clearLatch s).resKind = s.resKind := rfl
@[simp] theorem clearLatch_resMm (s : State) : (clearLatch s).resMm = s.resMm := rfl
@[simp] theorem clearLatch_resCode (s : State) : (clearLatch s).resCode = s.resCode := rfl
@[simp] theorem clearLatch_draws (s : State) : (clearLatch s).draws = s.draws := rfl
@[simp] theorem clearLatch_pending (s : State) : (clearLatch s).pending = s.pending := rfl
@[simp] theorem clearLatch_byteStep (s : State) : (clearLatch s).byteStep = s.byteStep := rfl
@[simp] theorem clearLatch_delivered (s : State) : (clearLatch s).delivered = s.delivered := rfl

@[simp] theorem setLatch_cfg (code : Byte) (s : State) : (setLatch code s).cfg = s.cfg := rfl
@[simp] theorem setLatch_ring (code : Byte) (s : State) : (setLatch code s).ring = s.ring := rfl
@[simp] theorem setLatch_head (code : Byte) (s : State) : (setLatch code s).head = s.head := rfl
@[simp] theorem setLatch_tail (code : Byte) (s : State) : (setLatch code s).tail = s.tail := rfl
@[simp] theorem setLatch_hsnap (code : Byte) (s : State) : (setLatch code s).hsnap = s.hsnap := rfl
@[simp] theorem setLatch_fbuf (code : Byte) (s : State) : (setLatch code s).fbuf = s.fbuf := rfl
@[simp] theorem setLatch_pos (code : Byte) (s : State) : (setLatch code s).pos = s.pos := rfl
@[simp] theorem setLatch_lbt (code : Byte) (s : State) : (setLatch code s).lbt = s.lbt := rfl
@[simp] theorem setLatch_lerrV (code : Byte) (s : State) : (setLatch code s).lerrV = true := rfl
@[simp] theorem setLatch_lerrCode (code : Byte) (s : State) : (setLatch code s).lerrCode = code := rfl
@[simp] theorem setLatch_phase (code : Byte) (s : State) : (setLatch code s).phase = s.phase := rfl
@[simp] theorem setLatch_resKind (code : Byte) (s : State) : (setLatch code s).resKind = s.resKind := rfl
@[simp] theorem setLatch_resMm (code : Byte) (s : State) : (setLatch code s).resMm = s.resMm := rfl
@[simp] theorem setLatch_resCode (code : Byte) (s : State) : (setLatch code s).resCode = s.resCode := rfl
@[simp] theorem setLatch_draws (code : Byte) (s : State) : (setLatch code s).draws = s.draws := rfl
@[simp] theorem setLatch_pending (code : Byte) (s : State) : (setLatch code s).pending = s.pending := rfl
@[simp] theorem setLatch_byteStep (code : Byte) (s : State) : (setLatch code s).byteStep = s.byteStep := rfl
@[simp] theorem setLatch_delivered (code : Byte) (s : State) : (setLatch code s).delivered = s.delivered := rfl

@[simp] theorem stampTime_cfg (t : Nat) (s : State) : (stampTime t s).cfg = s.cfg := rfl
@[simp] theorem stampTime_ring (t : Nat) (s : State) : (stampTime t s).ring = s.ring := rfl
@[simp] theorem stampTime_head (t : Nat) (s : State) : (stampTime t s).head = s.head := rfl
@[simp] theorem stampTime_tail (t : Nat) (s : State) : (stampTime t s).tail = s.tail := rfl
@[simp] theorem stampTime_hsnap (t : Nat) (s : State) : (stampTime t s).hsnap = s.hsnap := rfl
@[simp] theorem stampTime_fbuf (t : Nat) (s : State) : (stampTime t s).fbuf = s.fbuf := rfl
@[simp] theorem stampTime_pos (t : Nat) (s : State) : (stampTime t s).pos = s.pos := rfl
@[simp] theorem stampTime_lbt (t : Nat) (s : State) : (stampTime t s).lbt = sampleTime s.cfg t := rfl
@[simp] theorem stampTime_lerrV (t : Nat) (s : State) : (stampTime t s).lerrV = s.lerrV := rfl
@[simp] theorem stampTime_lerrCode (t : Nat) (s : State) : (stampTime t s).lerrCode = s.lerrCode := rfl
@[simp] theorem stampTime_phase (t : Nat) (s : State) : (stampTime t s).phase = s.phase := rfl
@[simp] theorem stampTime_resKind (t : Nat) (s : State) : (stampTime t s).resKind = s.resKind := rfl
@[simp] theorem stampTime_resMm (t : Nat) (s : State) : (stampTime t s).resMm = s.resMm := rfl
@[simp] theorem stampTime_resCode (t : Nat) (s : State) : (stampTime t s).resCode = s.resCode := rfl
@[simp] theorem stampTime_draws (t : Nat) (s : State) : (stampTime t s).draws = s.draws := rfl
@[simp] theorem stampTime_pending (t : Nat) (s : State) : (stampTime t s).pending = s.pending := rfl
@[simp] theorem stampTime_byteStep (t : Nat) (s : State) : (stampTime t s).byteStep = s.byteStep := rfl
@[simp] theorem stampTime_delivered (t : Nat) (s : State) : (stampTime t s).delivered = s.delivered := rfl

@[simp] theorem finishPoll_measurement_cfg (mm : BitVec 28) (s : State) : (finishPoll (.measurement mm) s).cfg = s.cfg := rfl
@[simp] theorem finishPoll_measurement_ring (mm : BitVec 28) (s : State) : (finishPoll (.measurement mm) s).ring = s.ring := rfl
@[simp] theorem finishPoll_measurement_head (mm : BitVec 28) (s : State) : (finishPoll (.measurement mm) s).head = s.head := rfl
@[simp] theorem finishPoll_measurement_tail (mm : BitVec 28) (s : State) : (finishPoll (.measurement mm) s).tail = s.tail := rfl
@[simp] theorem finishPoll_measurement_hsnap (mm : BitVec 28) (s : State) : (finishPoll (.measurement mm) s).hsnap = s.hsnap := rfl
@[simp] theorem finishPoll_measurement_fbuf (mm : BitVec 28) (s : State) : (finishPoll (.measurement mm) s).fbuf = s.fbuf := rfl
@[simp] theorem finishPoll_measurement_pos (mm : BitVec 28) (s : State) : (finishPoll (.measurement mm) s).pos = s.pos := rfl
@[simp] theorem finishPoll_measurement_lbt (mm : BitVec 28) (s : State) : (finishPoll (.measurement mm) s).lbt = s.lbt := rfl
@[simp] theorem finishPoll_measurement_lerrV (mm : BitVec 28) (s : State) : (finishPoll (.measurement mm) s).lerrV = s.lerrV := rfl
@[simp] theorem finishPoll_measurement_lerrCode (mm : BitVec 28) (s : State) : (finishPoll (.measurement mm) s).lerrCode = s.lerrCode := rfl
@[simp] theorem finishPoll_measurement_phase (mm : BitVec 28) (s : State) : (finishPoll (.measurement mm) s).phase = .idle := rfl
@[simp] theorem finishPoll_measurement_resKind (mm : BitVec 28) (s : State) : (finishPoll (.measurement mm) s).resKind = 1 := rfl
@[simp] theorem finishPoll_measurement_resMm (mm : BitVec 28) (s : State) : (finishPoll (.measurement mm) s).resMm = mm := rfl
@[simp] theorem finishPoll_measurement_resCode (mm : BitVec 28) (s : State) : (finishPoll (.measurement mm) s).resCode = Config.freeResCode s.draws := rfl
@[simp] theorem finishPoll_measurement_draws (mm : BitVec 28) (s : State) : (finishPoll (.measurement mm) s).draws = s.draws + 1 := rfl
@[simp] theorem finishPoll_measurement_pending (mm : BitVec 28) (s : State) : (finishPoll (.measurement mm) s).pending = s.pending := rfl
@[simp] theorem finishPoll_measurement_byteStep (mm : BitVec 28) (s : State) : (finishPoll (.measurement mm) s).byteStep = s.byteStep := rfl
@[simp] theorem finishPoll_measurement_delivered (mm : BitVec 28) (s : State) : (finishPoll (.measurement mm) s).delivered = .pollDone := rfl

@[simp] theorem finishPoll_errorReport_cfg (code : Byte) (s : State) : (finishPoll (.errorReport code) s).cfg = s.cfg := rfl
@[simp] theorem finishPoll_errorReport_ring (code : Byte) (s : State) : (finishPoll (.errorReport code) s).ring = s.ring := rfl
@[simp] theorem finishPoll_errorReport_head (code : Byte) (s : State) : (finishPoll (.errorReport code) s).head = s.head := rfl
@[simp] theorem finishPoll_errorReport_tail (code : Byte) (s : State) : (finishPoll (.errorReport code) s).tail = s.tail := rfl
@[simp] theorem finishPoll_errorReport_hsnap (code : Byte) (s : State) : (finishPoll (.errorReport code) s).hsnap = s.hsnap := rfl
@[simp] theorem finishPoll_errorReport_fbuf (code : Byte) (s : State) : (finishPoll (.errorReport code) s).fbuf = s.fbuf := rfl
@[simp] theorem finishPoll_errorReport_pos (code : Byte) (s : State) : (finishPoll (.errorReport code) s).pos = s.pos := rfl
@[simp] theorem finishPoll_errorReport_lbt (code : Byte) (s : State) : (finishPoll (.errorReport code) s).lbt = s.lbt := rfl
@[simp] theorem finishPoll_errorReport_lerrV (code : Byte) (s : State) : (finishPoll (.errorReport code) s).lerrV = s.lerrV := rfl
@[simp] theorem finishPoll_errorReport_lerrCode (code : Byte) (s : State) : (finishPoll (.errorReport code) s).lerrCode = s.lerrCode := rfl
@[simp] theorem finishPoll_errorReport_phase (code : Byte) (s : State) : (finishPoll (.errorReport code) s).phase = .idle := rfl
@[simp] theorem finishPoll_errorReport_resKind (code : Byte) (s : State) : (finishPoll (.errorReport code) s).resKind = 2 := rfl
@[simp] theorem finishPoll_errorReport_resMm (code : Byte) (s : State) : (finishPoll (.errorReport code) s).resMm = Config.freeResMm s.draws := rfl
@[simp] theorem finishPoll_errorReport_resCode (code : Byte) (s : State) : (finishPoll (.errorReport code) s).resCode = code := rfl
@[simp] theorem finishPoll_errorReport_draws (code : Byte) (s : State) : (finishPoll (.errorReport code) s).draws = s.draws + 1 := rfl
@[simp] theorem finishPoll_errorReport_pending (code : Byte) (s : State) : (finishPoll (.errorReport code) s).pending = s.pending := rfl
@[simp] theorem finishPoll_errorReport_byteStep (code : Byte) (s : State) : (finishPoll (.errorReport code) s).byteStep = s.byteStep := rfl
@[simp] theorem finishPoll_errorReport_delivered (code : Byte) (s : State) : (finishPoll (.errorReport code) s).delivered = .pollDone := rfl

@[simp] theorem resetBlock_cfg (s : State) : (resetBlock s).cfg = s.cfg := rfl
@[simp] theorem resetBlock_ring (s : State) : (resetBlock s).ring = [] := rfl
@[simp] theorem resetBlock_head (s : State) : (resetBlock s).head = 0 := rfl
@[simp] theorem resetBlock_tail (s : State) : (resetBlock s).tail = 0 := rfl
@[simp] theorem resetBlock_hsnap (s : State) : (resetBlock s).hsnap = Config.freeHsnap s.draws % 2 ^ s.cfg.wI := rfl
@[simp] theorem resetBlock_fbuf (s : State) : (resetBlock s).fbuf = Config.freeFbuf s.draws := rfl
@[simp] theorem resetBlock_pos (s : State) : (resetBlock s).pos = 0 := rfl
@[simp] theorem resetBlock_lbt (s : State) : (resetBlock s).lbt = sampleTime s.cfg (Config.freeLbt s.draws) := rfl
@[simp] theorem resetBlock_lerrV (s : State) : (resetBlock s).lerrV = false := rfl
@[simp] theorem resetBlock_lerrCode (s : State) : (resetBlock s).lerrCode = Config.freeLerrCode s.draws := rfl
@[simp] theorem resetBlock_phase (s : State) : (resetBlock s).phase = .idle := rfl
@[simp] theorem resetBlock_resKind (s : State) : (resetBlock s).resKind = 0 := rfl
@[simp] theorem resetBlock_resMm (s : State) : (resetBlock s).resMm = Config.freeResMm s.draws := rfl
@[simp] theorem resetBlock_resCode (s : State) : (resetBlock s).resCode = Config.freeResCode s.draws := rfl
@[simp] theorem resetBlock_draws (s : State) : (resetBlock s).draws = s.draws + 1 := rfl
@[simp] theorem resetBlock_pending (s : State) : (resetBlock s).pending = s.pending := rfl
@[simp] theorem resetBlock_byteStep (s : State) : (resetBlock s).byteStep = .outside := rfl
@[simp] theorem resetBlock_delivered (s : State) : (resetBlock s).delivered = s.delivered := rfl

@[simp] theorem dropStale_cfg (t : Nat) (s : State) : (dropStale t s).cfg = s.cfg := by unfold dropStale; split <;> rfl
@[simp] theorem dropStale_ring (t : Nat) (s : State) : (dropStale t s).ring = s.ring := by unfold dropStale; split <;> rfl
@[simp] theorem dropStale_head (t : Nat) (s : State) : (dropStale t s).head = s.head := by unfold dropStale; split <;> rfl
@[simp] theorem dropStale_tail (t : Nat) (s : State) : (dropStale t s).tail = s.tail := by unfold dropStale; split <;> rfl
@[simp] theorem dropStale_hsnap (t : Nat) (s : State) : (dropStale t s).hsnap = s.hsnap := by unfold dropStale; split <;> rfl
@[simp] theorem dropStale_fbuf (t : Nat) (s : State) : (dropStale t s).fbuf = s.fbuf := by unfold dropStale; split <;> rfl
@[simp] theorem dropStale_pos (t : Nat) (s : State) :
    (dropStale t s).pos = if isStale s.cfg s.pos s.lbt t then 0 else s.pos := by unfold dropStale; split <;> rfl
@[simp] theorem dropStale_lbt (t : Nat) (s : State) : (dropStale t s).lbt = s.lbt := by unfold dropStale; split <;> rfl
@[simp] theorem dropStale_lerrV (t : Nat) (s : State) : (dropStale t s).lerrV = s.lerrV := by unfold dropStale; split <;> rfl
@[simp] theorem dropStale_lerrCode (t : Nat) (s : State) : (dropStale t s).lerrCode = s.lerrCode := by unfold dropStale; split <;> rfl
@[simp] theorem dropStale_phase (t : Nat) (s : State) : (dropStale t s).phase = s.phase := by unfold dropStale; split <;> rfl
@[simp] theorem dropStale_resKind (t : Nat) (s : State) : (dropStale t s).resKind = s.resKind := by unfold dropStale; split <;> rfl
@[simp] theorem dropStale_resMm (t : Nat) (s : State) : (dropStale t s).resMm = s.resMm := by unfold dropStale; split <;> rfl
@[simp] theorem dropStale_resCode (t : Nat) (s : State) : (dropStale t s).resCode = s.resCode := by unfold dropStale; split <;> rfl
@[simp] theorem dropStale_draws (t : Nat) (s : State) : (dropStale t s).draws = s.draws := by unfold dropStale; split <;> rfl
@[simp] theorem dropStale_pending (t : Nat) (s : State) : (dropStale t s).pending = s.pending := by unfold dropStale; split <;> rfl
@[simp] theorem dropStale_byteStep (t : Nat) (s : State) : (dropStale t s).byteStep = s.byteStep := by unfold dropStale; split <;> rfl
@[simp] theorem dropStale_delivered (t : Nat) (s : State) : (dropStale t s).delivered = s.delivered := by unfold dropStale; split <;> rfl

@[simp] theorem moveByteStep_cfg (i : Instr) (s : State) : (moveByteStep i s).cfg = s.cfg := by unfold moveByteStep; split <;> rfl
@[simp] theorem moveByteStep_ring (i : Instr) (s : State) : (moveByteStep i s).ring = s.ring := by unfold moveByteStep; split <;> rfl
@[simp] theorem moveByteStep_head (i : Instr) (s : State) : (moveByteStep i s).head = s.head := by unfold moveByteStep; split <;> rfl
@[simp] theorem moveByteStep_tail (i : Instr) (s : State) : (moveByteStep i s).tail = s.tail := by unfold moveByteStep; split <;> rfl
@[simp] theorem moveByteStep_hsnap (i : Instr) (s : State) : (moveByteStep i s).hsnap = s.hsnap := by unfold moveByteStep; split <;> rfl
@[simp] theorem moveByteStep_fbuf (i : Instr) (s : State) : (moveByteStep i s).fbuf = s.fbuf := by unfold moveByteStep; split <;> rfl
@[simp] theorem moveByteStep_pos (i : Instr) (s : State) : (moveByteStep i s).pos = s.pos := by unfold moveByteStep; split <;> rfl
@[simp] theorem moveByteStep_lbt (i : Instr) (s : State) : (moveByteStep i s).lbt = s.lbt := by unfold moveByteStep; split <;> rfl
@[simp] theorem moveByteStep_lerrV (i : Instr) (s : State) : (moveByteStep i s).lerrV = s.lerrV := by unfold moveByteStep; split <;> rfl
@[simp] theorem moveByteStep_lerrCode (i : Instr) (s : State) : (moveByteStep i s).lerrCode = s.lerrCode := by unfold moveByteStep; split <;> rfl
@[simp] theorem moveByteStep_phase (i : Instr) (s : State) : (moveByteStep i s).phase = s.phase := by unfold moveByteStep; split <;> rfl
@[simp] theorem moveByteStep_resKind (i : Instr) (s : State) : (moveByteStep i s).resKind = s.resKind := by unfold moveByteStep; split <;> rfl
@[simp] theorem moveByteStep_resMm (i : Instr) (s : State) : (moveByteStep i s).resMm = s.resMm := by unfold moveByteStep; split <;> rfl
@[simp] theorem moveByteStep_resCode (i : Instr) (s : State) : (moveByteStep i s).resCode = s.resCode := by unfold moveByteStep; split <;> rfl
@[simp] theorem moveByteStep_draws (i : Instr) (s : State) : (moveByteStep i s).draws = s.draws := by unfold moveByteStep; split <;> rfl
@[simp] theorem moveByteStep_pending (i : Instr) (s : State) : (moveByteStep i s).pending = s.pending := by unfold moveByteStep; split <;> rfl
@[simp] theorem moveByteStep_delivered (i : Instr) (s : State) : (moveByteStep i s).delivered = s.delivered := by unfold moveByteStep; split <;> rfl
@[simp] theorem moveByteStep_byteStep (i : Instr) (s : State) :
    (moveByteStep i s).byteStep = if movesByteStep i then handOver s.delivered else s.byteStep := by
  unfold moveByteStep; split <;> rfl

end Sys2Proof.Machine
end

