-- ==== Sys2Proof/Laws/Ops.lean ====
section
/-! SUPPORT. What each shared operation can do, said once: if it answers next, then one of these cases holds. -/

namespace Sys2Proof.Machine

/-! Sequencing. -/

@[simp] theorem andThen_next {α β : Type} (a : α) (k : α → Res β) : andThen (.next a) k = k a := rfl
@[simp] theorem andThen_fault {α β : Type} (e : Fault) (k : α → Res β) : andThen (.fault e) k = .fault e := rfl
@[simp] theorem andThen_refused {α β : Type} (e : Refusal) (k : α → Res β) : andThen (.refused e) k = .refused e := rfl

theorem andThen_eq_next {α β : Type} {o : Res α} {k : α → Res β} {b : β} :
    andThen o k = .next b ↔ ∃ a, o = .next a ∧ k a = .next b := by
  cases o <;> simp

theorem andThen_eq_fault {α β : Type} {o : Res α} {k : α → Res β} {e : Fault} :
    andThen o k = .fault e ↔ o = .fault e ∨ ∃ a, o = .next a ∧ k a = .fault e := by
  cases o <;> simp

/-! The ring. -/

theorem ringRead_eq_next {s : State} {i : Nat} {v : Byte} :
    ringRead s i = .next v ↔ i < s.cfg.capacity ∧ Memory.read s.ring i = some v := by
  unfold ringRead
  split
  · rename_i h
    cases hr : Memory.read s.ring i <;> simp [h]
  · rename_i h
    simp [h]

/-- R100: what storing a received byte does, where HEAD is an index. -/
theorem storeReceived_of_lt (b : Byte) (s : State) (h : s.head < s.cfg.capacity) :
    storeReceived b s =
      .next { s with ring := Memory.write s.ring s.head b, head := nextIndex s.cfg s.head } := by
  simp [storeReceived, ringWrite, h]

theorem storeReceived_eq_next {b : Byte} {s u : State} (h : storeReceived b s = .next u) :
    s.head < s.cfg.capacity ∧
      u = { s with ring := Memory.write s.ring s.head b, head := nextIndex s.cfg s.head } := by
  by_cases hc : s.head < s.cfg.capacity
  · rw [storeReceived_of_lt b s hc] at h
    exact ⟨hc, by simpa using h.symm⟩
  · simp [storeReceived, ringWrite, hc] at h

theorem snapHead_eq_next {s u : State} (h : snapHead s = .next u) :
    s.phase = .idle ∧ u = { s with hsnap := s.head, phase := .draining } := by
  unfold snapHead at h
  split at h
  · exact ⟨‹_›, by simpa using h.symm⟩
  · simp at h

theorem snapHead_of_idle {s : State} (h : s.phase = .idle) :
    snapHead s = .next { s with hsnap := s.head, phase := .draining } := by
  simp [snapHead, h]

/-- R105: all a DRAIN can do. -/
theorem drainByte_eq_next {s : State} {d : Byte × State} (h : drainByte s = .next d) :
    s.phase = .draining ∧ s.tail ≠ s.hsnap ∧ s.tail < s.cfg.capacity ∧ Memory.read s.ring s.tail = some d.1 ∧
      d.2 = { s with tail := nextIndex s.cfg s.tail } := by
  unfold drainByte at h
  split at h
  · simp at h
  · rename_i hp
    split at h
    · simp at h
    · rename_i he
      obtain ⟨b, hb, hd⟩ := andThen_eq_next.mp h
      obtain ⟨h1, h2⟩ := ringRead_eq_next.mp hb
      have hd' : (b, { s with tail := nextIndex s.cfg s.tail }) = d := by simpa using hd
      subst hd'
      exact ⟨hp, by simpa [isEmpty] using he, h1, h2, rfl⟩

theorem drainByte_of_readable {s : State} {b : Byte} (hp : s.phase = .draining) (hne : s.tail ≠ s.hsnap)
    (hc : s.tail < s.cfg.capacity) (hb : Memory.read s.ring s.tail = some b) :
    drainByte s = .next (b, { s with tail := nextIndex s.cfg s.tail }) := by
  simp [drainByte, hp, isEmpty, hne, ringRead, hc, hb]

/-! The decoder. -/

/-- R159: DECODE_FRAME drops the frame, takes a Measurement or takes an Error Report. -/
theorem decodeFrame_cases (f : Frame) (s : State) :
    decodeFrame f s = (none, s) ∨ decodeFrame f s = takeMeasurement f s ∨ decodeFrame f s = takeErrorReport f s := by
  unfold decodeFrame dropFrame
  split
  · split
    · simp
    · split <;> simp
  · simp

/-! The assembler. -/

theorem storeByte_of_lt (b : Byte) (s : State) (h : s.pos.toNat < 13) :
    storeByte b s = .next { s with fbuf := s.fbuf.set s.pos.toNat b h, pos := s.pos + 1 } := by
  simp [storeByte, h]

/-- R120: an ASM step discards the byte in Searching, or stores it and completes the frame if it is full. -/
theorem assemble_eq_next {b : Byte} {t : Nat} {s : State} {r : Option Result × State}
    (h : assemble b t s = .next r) :
    (isSearching (stampTime t (dropStale t s)).pos = true ∧ isHeader b = false ∧
        r = (none, stampTime t (dropStale t s))) ∨
      ∃ hp : (stampTime t (dropStale t s)).pos.toNat < 13,
        (isSearching (stampTime t (dropStale t s)).pos && !isHeader b) = false ∧
        r = completeFrame
          { stampTime t (dropStale t s) with
              fbuf := (stampTime t (dropStale t s)).fbuf.set (stampTime t (dropStale t s)).pos.toNat b hp,
              pos := (stampTime t (dropStale t s)).pos + 1 } := by
  unfold assemble at h
  generalize hs1 : stampTime t (dropStale t s) = s1 at h ⊢
  split at h
  · rename_i hc
    simp only [Bool.and_eq_true, Bool.not_eq_true'] at hc
    exact .inl ⟨hc.1, hc.2, by simpa using h.symm⟩
  · rename_i hc
    by_cases hp : s1.pos.toNat < 13
    · rw [storeByte_of_lt b s1 hp] at h
      exact .inr ⟨hp, by simpa using hc, by simpa using h.symm⟩
    · simp [storeByte, hp] at h

/-! The poll. -/

/-- R177: a byte step is a DRAIN, an ASM and, if there is a result, the end of the poll. -/
theorem pollByte_eq_next {t : Nat} {s u : State} (h : pollByte t s = .next u) :
    ∃ d r, drainByte s = .next d ∧ assemble d.1 t d.2 = .next r ∧ u = afterByte r := by
  obtain ⟨d, hd, h⟩ := andThen_eq_next.mp h
  obtain ⟨r, hr, h⟩ := andThen_eq_next.mp h
  exact ⟨d, r, hd, hr, by simpa using h.symm⟩

/-- R178: the empty ending. -/
theorem pollEmpty_eq_next {s u : State} (h : pollEmpty s = .next u) :
    s.phase = .draining ∧ s.tail = s.hsnap ∧
      u = { s with resKind := 0, resMm := Config.freeResMm s.draws, resCode := Config.freeResCode s.draws,
                   draws := s.draws + 1, phase := .idle, delivered := .pollDone } := by
  unfold pollEmpty at h
  split at h
  · simp at h
  · rename_i hp
    split at h
    · rename_i he
      exact ⟨hp, by simpa [isEmpty] using he, by simpa using h.symm⟩
    · simp at h

theorem finishPoll_phase (x : Result) (s : State) : (finishPoll x s).phase = .idle := by cases x <;> rfl

/-! The requests. -/

theorem takeRequest_nil (c : Config) : takeRequest c [] = none := rfl

theorem takeRequest_empty_instant (c : Config) (rest : List Instant) :
    takeRequest c ([] :: rest) = takeRequest c rest := rfl

end Sys2Proof.Machine
end

