-- ==== Sys2Proof/Laws/Arith.lean ====
section
/-! SUPPORT. The arithmetic of 43_decoder.md R161 in plain numbers: the clock gap, the checksum, the BCD value. -/

namespace Sys2Proof.Machine

/-- R121: the gap the machine computes is the integer difference modulo `2^W_T`. -/
theorem timeGap_eq_gapOf (c : Config) (t lbt : Nat) : (timeGap c t lbt : Int) = gapOf c t lbt := by
  have hm : 0 < 2 ^ c.wT := Nat.two_pow_pos _
  unfold timeGap gapOf
  generalize 2 ^ c.wT = m at *
  have h1 : lbt % m < m := Nat.mod_lt _ hm
  rw [Int.natCast_emod, Int.natCast_add, Int.natCast_sub h1.le, Int.natCast_emod, Int.natCast_emod]
  rw [Int.emod_eq_emod_iff_emod_sub_eq_zero, ← Int.dvd_iff_emod_eq_zero]
  refine ⟨1 - (t : Int) / m + (lbt : Int) / m, ?_⟩
  have e1 := Int.mul_ediv_add_emod (t : Int) m
  have e2 := Int.mul_ediv_add_emod (lbt : Int) m
  linear_combination e1 - e2

theorem sampleTime_of_lt {c : Config} {t : Nat} (h : t < 2 ^ c.wT) : sampleTime c t = t := Nat.mod_eq_of_lt h

theorem sampleTime_lt (c : Config) (t : Nat) : sampleTime c t < 2 ^ c.wT := Nat.mod_lt _ (Nat.two_pow_pos _)

/-- The gap does not see how a sample was reduced to the width of the port. -/
theorem gapOf_sampleTime (c : Config) (t l : Nat) : gapOf c t (sampleTime c l) = gapOf c t l := by
  unfold gapOf sampleTime
  rw [Int.natCast_emod, Int.sub_emod, Int.emod_emod_of_dvd _ dvd_rfl, ← Int.sub_emod]

theorem isStale_eq (c : Config) (pos : BitVec 4) (lbt t : Nat) :
    isStale c pos lbt t = (pos != 0 && decide ((c.tStale : Int) < gapOf c t lbt)) := by
  unfold isStale
  rw [← timeGap_eq_gapOf]
  simp

/-- A frame by its thirteen bytes. -/
theorem frame_toList (f : Frame) :
    f.toList = [f[0], f[1], f[2], f[3], f[4], f[5], f[6], f[7], f[8], f[9], f[10], f[11], f[12]] := by
  apply List.ext_getElem (by simp)
  intro i h1 h2
  simp only [Vector.length_toList] at h1
  interval_cases i <;> simp

theorem payload_toList (p : Payload) : p.toList = [p[0], p[1], p[2], p[3]] := by
  apply List.ext_getElem (by simp)
  intro i h1 h2
  simp only [Vector.length_toList] at h1
  interval_cases i <;> simp

theorem checksum_toNat (f : Frame) : (checksum f).toNat = sumOf f % 256 := by
  unfold checksum sumOf
  rw [frame_toList]
  simp only [List.drop_succ_cons, List.drop_zero, List.take_succ_cons, List.take_zero, List.foldl_cons,
    List.foldl_nil, BitVec.toNat_add, BitVec.ofNat_eq_ofNat, BitVec.toNat_ofNat, Nat.zero_mod, Nat.mod_add_mod,
    Nat.zero_add, Nat.reducePow]

/-- R140: CHK in plain numbers. -/
theorem chkOk_eq (f : Frame) : chkOk f = decide (sumOf f % 256 = f[12].toNat) := by
  unfold chkOk cs
  rw [Bool.eq_iff_iff, beq_iff_eq, decide_eq_true_eq, ← checksum_toNat, BitVec.toNat_inj]

/-- R150: BCD32 in plain numbers. -/
theorem bcdValue_eq (p : Payload) : bcdValue p = bcdOf p[0] p[1] p[2] p[3] := by
  unfold bcdValue bcdOf
  rw [payload_toList]
  simp only [List.foldl_cons, List.foldl_nil, digitPair, highNibble, lowNibble]
  omega

theorem bcdOf_le (a b c d : Byte) : bcdOf a b c d ≤ 166666665 := by
  unfold bcdOf
  have := a.isLt; have := b.isLt; have := c.isLt; have := d.isLt
  omega

/-- R151: the 28-bit accumulator does not overflow. -/
theorem bcd32_toNat (p : Payload) : (bcd32 p).toNat = bcdOf p[0] p[1] p[2] p[3] := by
  unfold bcd32
  have := bcdOf_le p[0] p[1] p[2] p[3]
  rw [BitVec.toNat_ofNat, bcdValue_eq, Nat.mod_eq_of_lt (by omega)]

theorem nextIndex_lt {c : Config} (h : 2 ≤ c.capacity) (x : Nat) : nextIndex c x < c.capacity :=
  Nat.mod_lt _ (by omega)

end Sys2Proof.Machine
end

