-- ==== Sys2Proof/Laws/Encoding.lean ====
section
/-! SUPPORT. Numbers as bytes and frames as records: the small lemmas of the decoder and the encoder. -/

namespace Sys2Proof

@[simp] theorem leBytes_length (n v : Nat) : (leBytes n v).length = n := by
  induction n generalizing v with
  | zero => rfl
  | succ n ih => simp [leBytes, ih]

@[simp] theorem encodeTime_length (c : Config) (t : Nat) : (encodeTime c t).length = timeBytes c := leBytes_length _ _

theorem leValue_leBytes (n v : Nat) : leValue (leBytes n v) = v % 256 ^ n := by
  induction n generalizing v with
  | zero => simp [leBytes, leValue, Nat.mod_one]
  | succ n ih =>
    simp only [leBytes, leValue, ih, BitVec.toNat_ofNat]
    rw [show 256 ^ (n + 1) = 256 * 256 ^ n from Nat.pow_succ', Nat.mod_mul]

theorem leBytes_leValue (bs : Record) : leBytes bs.length (leValue bs) = bs := by
  induction bs with
  | nil => rfl
  | cons b bs ih =>
    have hb := b.isLt
    simp only [List.length_cons, leBytes, leValue]
    have h1 : (b.toNat + 256 * leValue bs) / 256 = leValue bs := by omega
    rw [h1, ih]
    congr 1
    apply BitVec.eq_of_toNat_eq
    simp only [BitVec.toNat_ofNat]
    omega

/-- A sample of `W_T` bits fits the bytes a record gives it. -/
theorem two_pow_wT_le (c : Config) : 2 ^ c.wT ≤ 256 ^ timeBytes c := by
  rw [show (256 : Nat) = 2 ^ 8 from rfl, ← Nat.pow_mul]
  exact Nat.pow_le_pow_right (by omega) (by unfold timeBytes; omega)

/-- A sample read back from its bytes. -/
theorem leValue_encodeTime {c : Config} {t : Nat} (h : timeFits c t = true) : leValue (encodeTime c t) = t := by
  have h1 : t < 2 ^ c.wT := by simpa [timeFits] using h
  rw [encodeTime, leValue_leBytes, Nat.mod_eq_of_lt (lt_of_lt_of_le h1 (two_pow_wT_le c))]

theorem timeBytes_pos {c : Config} (h : c.Valid) : 0 < timeBytes c := by
  have h2 := h.2
  unfold timeBytes
  rcases Nat.eq_zero_or_pos c.wT with hz | hz
  · rw [hz] at h2
    simp at h2
  · omega

/-- A frame read back from its bytes. -/
theorem frameOf_toList (f : Frame) : frameOf f.toList = some f := by
  rw [Machine.frame_toList]
  simp only [frameOf, Option.some.injEq]
  apply Vector.ext
  intro i hi
  interval_cases i <;> rfl

theorem frameOf_eq_some {r : Record} {f : Frame} (h : frameOf r = some f) : f.toList = r := by
  unfold frameOf at h
  split at h
  · rw [← Option.some.inj h]
    rfl
  · simp at h

end Sys2Proof
end

