-- ==== Sys2Proof/Laws/Classify.lean ====
section
/-! SUPPORT. The 104-bit view of a frame byte by byte, and clock samples in records. -/

namespace Sys2Proof.Machine

/-- R76: shifting one byte more into the view puts it at the bottom. -/
theorem view_step_low (w : BitVec 104) (b : Byte) : ((w <<< 8) ||| b.setWidth 104).extractLsb' 0 8 = b := by
  apply BitVec.eq_of_getLsbD_eq
  intro i hi
  simp [hi]
  omega
/-- R76: and moves the bytes before it up by one. -/
theorem view_step_high (w : BitVec 104) (b : Byte) (k : Nat) (hk : k + 16 ≤ 104) :
    ((w <<< 8) ||| b.setWidth 104).extractLsb' (k + 8) 8 = w.extractLsb' k 8 := by
  apply BitVec.eq_of_getLsbD_eq
  intro i hi
  have h1 : k + 8 + i < 104 := by omega
  have h2 : ¬ (k + 8 + i < 8) := by omega
  have h3 : k + 8 + i - 8 = k + i := by omega
  simp [hi, h1, h2, h3, BitVec.getLsbD_of_ge b (k+8+i) (by omega)]
  exact (BitVec.getLsbD_eq_getElem (by omega)).symm

/-- R76: byte `i` of the frame is bits `103-8i` to `96-8i` of the view. -/
theorem frameView_bytes (f : Frame) :
    (frameView f).extractLsb' 96 8 = f[0] ∧ (frameView f).extractLsb' 88 8 = f[1] ∧ (frameView f).extractLsb' 80 8 = f[2] ∧
    (frameView f).extractLsb' 72 8 = f[3] ∧ (frameView f).extractLsb' 64 8 = f[4] ∧ (frameView f).extractLsb' 56 8 = f[5] ∧
    (frameView f).extractLsb' 48 8 = f[6] ∧ (frameView f).extractLsb' 40 8 = f[7] ∧ (frameView f).extractLsb' 32 8 = f[8] ∧
    (frameView f).extractLsb' 24 8 = f[9] ∧ (frameView f).extractLsb' 16 8 = f[10] ∧ (frameView f).extractLsb' 8 8 = f[11] ∧
    (frameView f).extractLsb' 0 8 = f[12] := by
  unfold frameView
  rw [frame_toList]
  simp only [List.foldl_cons, List.foldl_nil]
  refine ⟨?_, ?_, ?_, ?_, ?_, ?_, ?_, ?_, ?_, ?_, ?_, ?_, view_step_low _ _⟩
  · iterate 12 rw [view_step_high _ _ _ (by decide)]
    exact view_step_low _ _
  · iterate 11 rw [view_step_high _ _ _ (by decide)]
    exact view_step_low _ _
  · iterate 10 rw [view_step_high _ _ _ (by decide)]
    exact view_step_low _ _
  · iterate 9 rw [view_step_high _ _ _ (by decide)]
    exact view_step_low _ _
  · iterate 8 rw [view_step_high _ _ _ (by decide)]
    exact view_step_low _ _
  · iterate 7 rw [view_step_high _ _ _ (by decide)]
    exact view_step_low _ _
  · iterate 6 rw [view_step_high _ _ _ (by decide)]
    exact view_step_low _ _
  · iterate 5 rw [view_step_high _ _ _ (by decide)]
    exact view_step_low _ _
  · iterate 4 rw [view_step_high _ _ _ (by decide)]
    exact view_step_low _ _
  · iterate 3 rw [view_step_high _ _ _ (by decide)]
    exact view_step_low _ _
  · iterate 2 rw [view_step_high _ _ _ (by decide)]
    exact view_step_low _ _
  · iterate 1 rw [view_step_high _ _ _ (by decide)]
    exact view_step_low _ _

/-- Two views are equal when their thirteen bytes are. -/
theorem word_eq_iff (a b : BitVec 104) :
    a = b ↔ ∀ k : Fin 13, a.extractLsb' (8 * k.val) 8 = b.extractLsb' (8 * k.val) 8 := by
  constructor
  · rintro rfl _; rfl
  · intro h
    apply BitVec.eq_of_getLsbD_eq
    intro i hi
    have := congrArg (fun x => x.getLsbD (i % 8)) (h ⟨i / 8, by omega⟩)
    have h8 : i % 8 < 8 := by omega
    have hi2 : 8 * (i / 8) + i % 8 = i := by omega
    simpa [BitVec.getLsbD_extractLsb', h8, hi2] using this

/-- R93: a row is matched byte by byte. -/
theorem masked_eq_iff (f : Frame) (m v : BitVec 104) :
    (frameView f &&& m == v) = true ↔
      ∀ k : Fin 13, f[12 - k.val] &&& m.extractLsb' (8 * k.val) 8 = v.extractLsb' (8 * k.val) 8 := by
  rw [beq_iff_eq, word_eq_iff]
  refine forall_congr' fun k => ?_
  have hb := frameView_bytes f
  have : (frameView f).extractLsb' (8 * k.val) 8 = f[12 - k.val] := by
    obtain ⟨k, hk⟩ := k
    interval_cases k <;> simp [hb]
  rw [← this]
  have e : ∀ a b : BitVec 104, (a &&& b).extractLsb' (8 * k.val) 8 = a.extractLsb' (8 * k.val) 8 &&& b.extractLsb' (8 * k.val) 8 := by
    intro a b
    apply BitVec.eq_of_getLsbD_eq
    intro i hi
    simp [hi]
  rw [e]

end Sys2Proof.Machine

namespace Sys2Proof

/-- A clock sample read back from its record. -/
theorem decodeTime_encodeTime {c : Config} {t : Nat} (h : timeFits c t = true) :
    decodeTime c (encodeTime c t) = .ok t := by
  simp [decodeTime, leValue_encodeTime h, h]

/-- Clock samples read back from their records. -/
theorem decodeTimes_encode {c : Config} (hv : c.Valid) (ts : List Nat) (h : ts.all (timeFits c) = true) (fuel : Nat)
    (hf : ts.length ≤ fuel) : decodeTimes c fuel (ts.flatMap (encodeTime c)) = .ok ts := by
  have hp := timeBytes_pos hv
  induction ts generalizing fuel with
  | nil => unfold decodeTimes; rfl
  | cons t ts ih =>
    simp only [List.all_cons, Bool.and_eq_true] at h
    have hl := encodeTime_length c t
    match fuel, hf with
    | fuel + 1, hf =>
      have hne : encodeTime c t ++ ts.flatMap (encodeTime c) ≠ [] := by
        intro h; have := congrArg List.length h; simp at this; omega
      rw [List.flatMap_cons]
      obtain ⟨b, bs, hb⟩ := List.exists_cons_of_ne_nil hne
      rw [hb]
      unfold decodeTimes
      rw [← hb, List.take_left' hl, List.drop_left' hl, decodeTime_encodeTime h.1]
      simp only
      rw [ih h.2 fuel (by simpa using hf)]

/-- A clock sample that decodes is the record of what it decodes to. -/
theorem decodeTime_ok {c : Config} {r : Record} {t : Nat} (h : decodeTime c r = .ok t) :
    timeFits c t = true ∧ encodeTime c t = r := by
  unfold decodeTime at h
  split at h
  · split at h
    · cases h; rename_i h1 h2; exact ⟨h2, by rw [encodeTime, ← h1, leBytes_leValue]⟩
    · simp at h
  · simp at h

/-- Clock samples that decode are the records of what they decode to. -/
theorem decodeTimes_ok {c : Config} {n : Nat} {r : Record} {ts : List Nat} (h : decodeTimes c n r = .ok ts) :
    ts.all (timeFits c) = true ∧ ts.flatMap (encodeTime c) = r := by
  induction n generalizing r ts with
  | zero => cases r <;> simp [decodeTimes] at h; subst h; simp
  | succ n ih =>
    cases r with
    | nil => simp [decodeTimes] at h; subst h; simp
    | cons b bs =>
      unfold decodeTimes at h
      split at h
      · simp at h
      · rename_i t ht
        split at h
        · simp at h
        · rename_i us hus
          cases h
          obtain ⟨h1, h2⟩ := decodeTime_ok ht
          obtain ⟨h3, h4⟩ := ih hus
          refine ⟨by simp [h1, h3], ?_⟩
          rw [List.flatMap_cons, h2, h4, List.take_append_drop]

end Sys2Proof
end

