-- ==== Sys2Proof/Laws/PerInstr.lean ====
section
/-! SUPPORT. The shape of every instruction's record: its selector byte and its length. -/

namespace Sys2Proof.Laws

/-- The selector byte of the record of an instruction. -/
def selectorOf : Instr → Byte
  | .decBadchk _ => selFrame
  | .decMeas20 _ => selFrame
  | .decMeas21 _ => selFrame
  | .decMeas22 _ => selFrame
  | .decErrEe _ => selFrame
  | .decErrHeur _ => selFrame
  | .decDiscard _ => selFrame
  | .rxwrite _ => selRx
  | .poll _ _ => selPoll
  | .getlasterror => selLerr
  | .reset => selRst
  | .pollStart => selPollStart
  | .snap => selSnap
  | .pollStep _ => selPollStep
  | .drain => selDrain
  | .asm _ _ => selAsm
  | .pollEnd => selPollEnd
  | .endPoll _ => selEndPoll
  | .chk _ => selChk
  | .bcd32 _ => selBcd32
  | .decodeFrame _ => selDecodeFrame
  | .cmdLaserOn => selCmd
  | .cmdLaserOff => selCmd
  | .cmdQuickRead => selCmd

/-- How many bytes follow the selector. -/
def bodyLength (c : Config) : Instr → Nat
  | .decBadchk _ => 13
  | .decMeas20 _ => 13
  | .decMeas21 _ => 13
  | .decMeas22 _ => 13
  | .decErrEe _ => 13
  | .decErrHeur _ => 13
  | .decDiscard _ => 13
  | .rxwrite _ => 2
  | .poll _ ts => 1 + (ts.length + 1) * timeBytes c
  | .getlasterror => 0
  | .reset => 1
  | .pollStart => 1
  | .snap => 1
  | .pollStep _ => 1 + timeBytes c
  | .drain => 1
  | .asm _ _ => 2 + timeBytes c
  | .pollEnd => 1
  | .endPoll (.measurement _) => 6
  | .endPoll (.errorReport _) => 3
  | .chk _ => 13
  | .bcd32 _ => 4
  | .decodeFrame _ => 13
  | .cmdLaserOn => 9
  | .cmdLaserOff => 9
  | .cmdQuickRead => 9

/-- The record begins with the selector of the instruction's row and has the row's length. -/
def RecordShape.Statement (i : Instr) : Prop :=
  ∀ c : Config, (encode c i).head? = some (selectorOf i) ∧ (encode c i).length = 1 + bodyLength c i

/-- The record of a frame class is the selector of frames and thirteen bytes. -/
theorem frame_record_shape (sel : Byte) (f : Frame) :
    (sel :: f.toList).head? = some sel ∧ (sel :: f.toList).length = 1 + 13 := by simp

theorem RecordShape.decBadchk (f : Frame) : RecordShape.Statement (.decBadchk f) := fun _ => frame_record_shape _ f
theorem RecordShape.decMeas20 (f : Frame) : RecordShape.Statement (.decMeas20 f) := fun _ => frame_record_shape _ f
theorem RecordShape.decMeas21 (f : Frame) : RecordShape.Statement (.decMeas21 f) := fun _ => frame_record_shape _ f
theorem RecordShape.decMeas22 (f : Frame) : RecordShape.Statement (.decMeas22 f) := fun _ => frame_record_shape _ f
theorem RecordShape.decErrEe (f : Frame) : RecordShape.Statement (.decErrEe f) := fun _ => frame_record_shape _ f
theorem RecordShape.decErrHeur (f : Frame) : RecordShape.Statement (.decErrHeur f) := fun _ => frame_record_shape _ f
theorem RecordShape.decDiscard (f : Frame) : RecordShape.Statement (.decDiscard f) := fun _ => frame_record_shape _ f
theorem RecordShape.rxwrite (b : Byte) : RecordShape.Statement (.rxwrite b) := fun _ => ⟨rfl, rfl⟩

/-- The clock samples of a POLL take `W_T` bits in whole bytes each. -/
theorem samples_length (c : Config) (ts : List Nat) :
    (ts.flatMap (encodeTime c)).length = ts.length * timeBytes c := by
  induction ts with
  | nil => simp
  | cons t ts ih => simp [ih, Nat.add_mul, Nat.add_comm]

theorem RecordShape.poll (t : Nat) (ts : List Nat) : RecordShape.Statement (.poll t ts) := fun c =>
  ⟨rfl, by
    show (selPoll :: 1 :: (t :: ts).flatMap (encodeTime c)).length = _
    simp only [List.length_cons, samples_length, bodyLength]
    omega⟩

theorem RecordShape.getlasterror : RecordShape.Statement .getlasterror := fun _ => ⟨rfl, rfl⟩
theorem RecordShape.reset : RecordShape.Statement .reset := fun _ => ⟨rfl, rfl⟩
theorem RecordShape.pollStart : RecordShape.Statement .pollStart := fun _ => ⟨rfl, rfl⟩
theorem RecordShape.snap : RecordShape.Statement .snap := fun _ => ⟨rfl, rfl⟩

theorem RecordShape.pollStep (t : Nat) : RecordShape.Statement (.pollStep t) := fun c =>
  ⟨rfl, by simp [encode, bodyLength]; omega⟩

theorem RecordShape.drain : RecordShape.Statement .drain := fun _ => ⟨rfl, rfl⟩

theorem RecordShape.asm (b : Byte) (t : Nat) : RecordShape.Statement (.asm b t) := fun c =>
  ⟨rfl, by simp [encode, bodyLength]; omega⟩

theorem RecordShape.pollEnd : RecordShape.Statement .pollEnd := fun _ => ⟨rfl, rfl⟩

theorem RecordShape.endPoll (x : Result) : RecordShape.Statement (.endPoll x) := fun _ => by
  cases x <;> exact ⟨rfl, rfl⟩

theorem RecordShape.chk (f : Frame) : RecordShape.Statement (.chk f) := fun _ => frame_record_shape _ f

theorem RecordShape.bcd32 (p : Payload) : RecordShape.Statement (.bcd32 p) := fun _ =>
  ⟨rfl, by simp [encode, bodyLength]⟩

theorem RecordShape.decodeFrame (f : Frame) : RecordShape.Statement (.decodeFrame f) := fun _ =>
  frame_record_shape _ f

theorem RecordShape.cmdLaserOn : RecordShape.Statement .cmdLaserOn := fun _ => ⟨rfl, rfl⟩
theorem RecordShape.cmdLaserOff : RecordShape.Statement .cmdLaserOff := fun _ => ⟨rfl, rfl⟩
theorem RecordShape.cmdQuickRead : RecordShape.Statement .cmdQuickRead := fun _ => ⟨rfl, rfl⟩

end Sys2Proof.Laws
end

