-- ==== Sys2Proof/Laws/Steps.lean ====
section
/-! SUPPORT. What DECODE_FRAME, the completion of a frame, ASM and a step can do, each said once. -/

namespace Sys2Proof.Machine

/-- R159: DECODE_FRAME writes the latch and nothing else. -/
theorem decodeFrame_frame (f : Frame) (s : State) :
    (decodeFrame f s).2 = { s with lerrV := (decodeFrame f s).2.lerrV, lerrCode := (decodeFrame f s).2.lerrCode } := by
  rcases decodeFrame_cases f s with h | h | h <;> rw [h] <;> rfl

/-- R125: completing a frame writes POS and the latch and nothing else. -/
theorem completeFrame_frame (s : State) :
    (completeFrame s).2 =
      { s with pos := (completeFrame s).2.pos, lerrV := (completeFrame s).2.lerrV,
               lerrCode := (completeFrame s).2.lerrCode } := by
  unfold completeFrame
  split
  · rcases decodeFrame_cases s.fbuf s with h | h | h <;> rw [h] <;> rfl
  · rfl

/-- R125: POS goes back to 0 after the thirteenth byte only. -/
theorem completeFrame_pos (s : State) : (completeFrame s).2.pos = if s.pos = 13 then 0 else s.pos := by
  unfold completeFrame isFull
  by_cases h : s.pos = 13
  · simp [h]
  · rw [if_neg h, if_neg (by simpa using h)]

/-- R127: ASM writes LBT, POS, FBUF and the latch and nothing else. -/
theorem assemble_frame {b : Byte} {t : Nat} {s : State} {r : Option Result × State} (h : assemble b t s = .next r) :
    r.2 = { s with lbt := sampleTime s.cfg t, pos := r.2.pos, fbuf := r.2.fbuf, lerrV := r.2.lerrV,
                   lerrCode := r.2.lerrCode } := by
  rcases assemble_eq_next h with ⟨-, -, rfl⟩ | ⟨hp, -, rfl⟩
  · unfold stampTime dropStale; split <;> rfl
  · rw [completeFrame_frame]
    unfold stampTime dropStale; split <;> rfl

/-- R39 I-2: ASM leaves POS at 12 or below. -/
theorem assemble_pos_le {b : Byte} {t : Nat} {s : State} {r : Option Result × State} (h : assemble b t s = .next r) :
    r.2.pos.toNat ≤ 12 := by
  rcases assemble_eq_next h with ⟨hs, -, rfl⟩ | ⟨hp, -, rfl⟩
  · simp only [isSearching, beq_iff_eq] at hs
    show (stampTime t (dropStale t s)).pos.toNat ≤ 12
    rw [hs]; decide
  · generalize stampTime t (dropStale t s) = s1 at hp ⊢
    rw [completeFrame_pos]
    simp only
    split
    · decide
    · rename_i hne
      have : (s1.pos + 1).toNat ≠ 13 := fun h => hne (BitVec.eq_of_toNat_eq (by simpa using h))
      rw [BitVec.toNat_add] at *
      simp at *
      omega

/-- R39 I-3: a byte is accepted as byte 0 only if it is the header. -/
theorem assemble_header {b : Byte} {t : Nat} {s : State} {r : Option Result × State} (h : assemble b t s = .next r)
    (hs : s.pos ≠ 0 → s.fbuf[0] = 0xAA) : r.2.pos ≠ 0 → r.2.fbuf[0] = 0xAA := by
  rcases assemble_eq_next h with ⟨hq, -, rfl⟩ | ⟨hp, hq, rfl⟩
  · intro hne; simp only [isSearching, beq_iff_eq] at hq; exact absurd hq hne
  · have hs1 : (stampTime t (dropStale t s)).pos ≠ 0 → (stampTime t (dropStale t s)).fbuf[0] = 0xAA := by
      simp only [stampTime_pos, dropStale_pos, stampTime_fbuf, dropStale_fbuf]
      split
      · intro h; exact absurd rfl h
      · exact hs
    generalize stampTime t (dropStale t s) = s1 at hp hq hs1 ⊢
    intro _
    rw [completeFrame_frame]
    show (s1.fbuf.set s1.pos.toNat b hp)[0] = 0xAA
    rw [Vector.getElem_set]
    by_cases h0 : s1.pos = 0
    · simp [h0, isSearching, isHeader, headerByte] at hq ⊢
      exact hq
    · have : s1.pos.toNat ≠ 0 := fun h => h0 (BitVec.eq_of_toNat_eq (by simpa using h))
      simp [this, hs1 h0]

/-- R120: below 13 bytes ASM always has a next state. -/
theorem assemble_completes {b : Byte} {t : Nat} {s : State} (h : s.pos.toNat ≤ 12) :
    ∃ r, assemble b t s = .next r := by
  have hp : (stampTime t (dropStale t s)).pos.toNat < 13 := by
    simp only [stampTime_pos, dropStale_pos]
    split
    · decide
    · omega
  unfold assemble
  split
  · exact ⟨_, rfl⟩
  · rw [storeByte_of_lt _ _ hp]; exact ⟨_, rfl⟩

/-- R160: what ASM returns and what it does to the latch go together. -/
theorem assemble_latch {b : Byte} {t : Nat} {s : State} {r : Option Result × State} (h : assemble b t s = .next r) :
    (r.1 = none ∧ r.2.lerrV = s.lerrV ∧ r.2.lerrCode = s.lerrCode) ∨
    (∃ mm, r.1 = some (.measurement mm) ∧ r.2.lerrV = false ∧ r.2.lerrCode = s.lerrCode ∧ r.2.pos = 0) ∨
    (∃ c, r.1 = some (.errorReport c) ∧ r.2.lerrV = true ∧ r.2.lerrCode = c ∧ r.2.pos = 0) := by
  rcases assemble_eq_next h with ⟨hq, -, rfl⟩ | ⟨hp, hq, rfl⟩
  · exact .inl ⟨rfl, by simp, by simp⟩
  · unfold completeFrame
    split
    · rcases decodeFrame_cases ({ stampTime t (dropStale t s) with
              fbuf := (stampTime t (dropStale t s)).fbuf.set (stampTime t (dropStale t s)).pos.toNat b hp,
              pos := (stampTime t (dropStale t s)).pos + 1 } : State).fbuf _ with h | h | h <;> rw [h]
      · exact .inl ⟨rfl, by simp, by simp⟩
      · exact .inr (.inl ⟨_, rfl, rfl, by simp [takeMeasurement], rfl⟩)
      · exact .inr (.inr ⟨_, rfl, rfl, rfl, rfl⟩)
    · exact .inl ⟨rfl, by simp, by simp⟩

/-- R159: a requested frame runs only as the ASM step that completes it. -/
theorem completeRequested_eq_next {f : Frame} {s u : State} (h : completeRequested f s = .next u) :
    AwaitsLastByte f s ∧ exec (.asm (cs f) s.lbt) s = .next u := by
  unfold completeRequested at h
  split at h
  · rename_i ha
    exact ⟨ha, h⟩
  · simp at h

/-- Whether an operation is in its place does not depend on the requests still pending. -/
@[simp] theorem inPlace_pending (i : Instr) (s : State) (rest : List Instant) :
    inPlace i { s with pending := rest } = inPlace i s := by cases i <;> rfl

/-- A frame class and DECODE_FRAME are judged by `completeRequested` alone, and move the byte step on. -/
theorem frameAtCompletion_eq_some {i : Instr} {f : Frame} (h : frameAtCompletion i = some f) :
    (∀ s, inPlace i s = true) ∧ movesByteStep i = true := by
  cases i <;> simp [frameAtCompletion] at h <;> exact ⟨fun _ => rfl, rfl⟩

/-- A requested operation that has a next state was in its place, and the byte step has moved on. -/
theorem runRequest_eq_next {i : Instr} {s u : State} (h : runRequest i s = .next u) :
    inPlace i s = true ∧ ∃ v, perform i s = .next v ∧ u = moveByteStep i v := by
  unfold runRequest at h
  split at h
  · rename_i hp
    obtain ⟨v, hv, hu⟩ := andThen_eq_next.mp h
    cases hu
    exact ⟨hp, v, hv, rfl⟩
  · simp at h

/-- A step runs the request it takes. -/
theorem step_of_request {s : State} {r : Record} {rest : List Instant} {i : Instr}
    (h : takeRequest s.cfg s.pending = some (r, rest)) (hd : decode s.cfg r = .ok i) :
    step s = runRequest i { s with pending := rest } := by
  simp [step, h, hd]

/-- Steps compose. -/
theorem stepAll_add (m n : Nat) (s : State) : stepAll (m + n) s = andThen (stepAll m s) (stepAll n) := by
  induction m generalizing s with
  | zero => simp [stepAll]
  | succ m ih =>
    rw [Nat.add_right_comm]
    simp only [stepAll]
    cases step s <;> simp [ih]

end Sys2Proof.Machine
end

