-- ==== Sys2Proof/Tests/Slice0.lean ====
section
/-! SUPPORT. The model's own tests. Expected results are those of spec/95_test_vectors.md (named V<n>, P<n>, S<n>) or
calculated by hand from the rules named; the witnesses show a state and operands that meet a statement's hypotheses. -/

namespace Sys2Proof.Tests

open Sys2Proof Sys2Proof.Machine

/-! Small states and readers of an outcome. -/

/-- `C = 4`, the rest as R9's defaults but an 8-bit clock. -/
def cfg4 : Config := { capacity := 4, tStale := 50, wT := 8 }

/-- The state after reset with `C = 4`. -/
def small : State := { State.reset with cfg := cfg4 }

/-- A poll in progress over the two bytes AA 07 at indices 3 and 0 (`C = 4`, every cell written). -/
def polling : State :=
  { small with ring := [(0, 0x07), (1, 0x11), (2, 0x22), (3, 0xAA)], tail := 3, hsnap := 1, head := 1, phase := .draining }

/-- A poll in progress in which the Receiver has come round to the byte about to be drained. -/
def raced : State := { polling with head := 3 }

/-- 95_test_vectors.md frame A. -/
def frameA : Frame := #v[0xAA, 0x00, 0x00, 0x20, 0x00, 0x01, 0x00, 0x01, 0x23, 0x45, 0x00, 0x00, 0x8A]

/-- Frame A', its checksum off by one. -/
def frameA' : Frame := #v[0xAA, 0x00, 0x00, 0x20, 0x00, 0x01, 0x00, 0x01, 0x23, 0x45, 0x00, 0x00, 0x8B]

/-- Frame E. -/
def frameE : Frame := #v[0xAA, 0x00, 0x00, 0xEE, 0x00, 0x00, 0x00, 0x03, 0x00, 0x00, 0x00, 0x00, 0xF1]

/-- V43. -/
def frame21 : Frame := #v[0xAA, 0x00, 0x00, 0x21, 0x00, 0x01, 0x99, 0x99, 0x99, 0x99, 0x00, 0x00, 0x86]

/-- V44. -/
def frame22 : Frame := #v[0xAA, 0x00, 0x00, 0x22, 0x00, 0x03, 0x00, 0x02, 0x50, 0x00, 0x01, 0x64, 0xDC]

/-- V49, the largest heuristic code. -/
def frameHeur : Frame := #v[0xAA, 0x01, 0x00, 0x06, 0x00, 0x01, 0x00, 0x1F, 0x00, 0x00, 0x00, 0x00, 0x27]

/-- V50, one above it. -/
def frameDiscard : Frame := #v[0xAA, 0x01, 0x00, 0x06, 0x00, 0x01, 0x00, 0x20, 0x00, 0x00, 0x00, 0x00, 0x28]

/-- A frame whose first byte is not the header (V30). -/
def frameNoHeader : Frame := #v[0x55, 0x00, 0x00, 0x20, 0x00, 0x01, 0x00, 0x01, 0x23, 0x45, 0x00, 0x00, 0x8A]

/-- An assembler in Accumulating: `POS = p`, `LBT = 100`, FBUF the first twelve bytes of frame A and a 0. -/
def accumulating (p : BitVec 4) : State :=
  { polling with fbuf := frameA.set 12 0, pos := p, lbt := 100 }

/-- The next state, if there is one. -/
def nextOf : Res State → Option State
  | .next s => some s
  | _ => none

/-- What a step delivers, if it has a next state. -/
def outOf (o : Res State) : Option Delivered := (nextOf o).map (fun s => s.delivered)

/-- POS, LBT, FBUF and the delivery after an ASM step. -/
def asmOf (b : Byte) (t : Nat) (s : State) : Option (BitVec 4 × Nat × Frame × Delivered) :=
  (nextOf (exec (.asm b t) s)).map (fun u => (u.pos, u.lbt, u.fbuf, u.delivered))

/-- Delivery and latch after a step from the latch `some(9)` (95_test_vectors.md 2.5). -/
def latched (i : Instr) : Option (Delivered × Option Byte) :=
  (nextOf (exec i { small with lerrV := true, lerrCode := 9 })).map (fun u => (u.delivered, latchValue u))

/-! WellFormed refuses an ill-formed term of each check. -/

theorem test_wf_badchk : (Instr.decBadchk frameA).wellFormed cfg4 = false := by decide
theorem test_wf_meas20 : (Instr.decMeas20 frame21).wellFormed cfg4 = false := by decide
theorem test_wf_meas21 : (Instr.decMeas21 frame22).wellFormed cfg4 = false := by decide
theorem test_wf_meas22 : (Instr.decMeas22 frameA').wellFormed cfg4 = false := by decide
theorem test_wf_err_ee : (Instr.decErrEe frameHeur).wellFormed cfg4 = false := by decide
theorem test_wf_err_heur : (Instr.decErrHeur frameDiscard).wellFormed cfg4 = false := by decide
theorem test_wf_err_heur_measures : (Instr.decErrHeur frameA).wellFormed cfg4 = false := by decide
theorem test_wf_discard : (Instr.decDiscard frameNoHeader).wellFormed cfg4 = false := by decide
theorem test_wf_poll_first : (Instr.poll 256 [0]).wellFormed cfg4 = false := by decide
theorem test_wf_poll_later : (Instr.poll 0 [255, 256]).wellFormed cfg4 = false := by decide
theorem test_wf_poll_step : (Instr.pollStep 256).wellFormed cfg4 = false := by decide
theorem test_wf_asm : (Instr.asm 0 256).wellFormed cfg4 = false := by decide
theorem test_wf_chk : (Instr.chk frameNoHeader).wellFormed cfg4 = false := by decide
theorem test_wf_decode_frame : (Instr.decodeFrame frameNoHeader).wellFormed cfg4 = false := by decide
theorem test_wf_largest_time : (Instr.pollStep 255).wellFormed cfg4 = true := by decide

/-! Decoding: a record written out from the row's pattern for every constructor, and records that no row matches. -/

theorem test_decode_badchk : decode cfg4 (0x30 :: [0xAA, 0, 0, 0x20, 0, 1, 0, 1, 0x23, 0x45, 0, 0, 0x8B]) =
    .ok (.decBadchk frameA') := by rfl
theorem test_decode_meas20 : decode cfg4 (0x30 :: [0xAA, 0, 0, 0x20, 0, 1, 0, 1, 0x23, 0x45, 0, 0, 0x8A]) =
    .ok (.decMeas20 frameA) := by rfl
theorem test_decode_meas21 : decode cfg4 (0x30 :: [0xAA, 0, 0, 0x21, 0, 1, 0x99, 0x99, 0x99, 0x99, 0, 0, 0x86]) =
    .ok (.decMeas21 frame21) := by rfl
theorem test_decode_meas22 : decode cfg4 (0x30 :: [0xAA, 0, 0, 0x22, 0, 3, 0, 2, 0x50, 0, 1, 0x64, 0xDC]) =
    .ok (.decMeas22 frame22) := by rfl
theorem test_decode_err_ee : decode cfg4 (0x30 :: [0xAA, 0, 0, 0xEE, 0, 0, 0, 3, 0, 0, 0, 0, 0xF1]) =
    .ok (.decErrEe frameE) := by rfl
theorem test_decode_err_heur : decode cfg4 (0x30 :: [0xAA, 1, 0, 6, 0, 1, 0, 0x1F, 0, 0, 0, 0, 0x27]) =
    .ok (.decErrHeur frameHeur) := by rfl
theorem test_decode_discard : decode cfg4 (0x30 :: [0xAA, 1, 0, 6, 0, 1, 0, 0x20, 0, 0, 0, 0, 0x28]) =
    .ok (.decDiscard frameDiscard) := by rfl
theorem test_decode_rxwrite : decode cfg4 [0x00, 0b00000001, 0b01011010] = .ok (.rxwrite 0x5A) := by rfl
theorem test_decode_poll : decode Config.standard [0x01, 1, 0x97, 0, 0, 0, 0, 1, 0, 0] = .ok (.poll 151 [256]) := by rfl
theorem test_decode_getlasterror : decode cfg4 [0x02] = .ok .getlasterror := by rfl
theorem test_decode_reset : decode cfg4 [0x03, 1] = .ok .reset := by rfl
theorem test_decode_poll_start : decode cfg4 [0x10, 0b01] = .ok .pollStart := by rfl
theorem test_decode_snap : decode cfg4 [0x11, 0b01] = .ok .snap := by rfl
theorem test_decode_poll_step : decode Config.standard [0x12, 1, 0x88, 0x13, 0, 0] = .ok (.pollStep 5000) := by rfl
theorem test_decode_drain : decode cfg4 [0x13, 1] = .ok .drain := by rfl
theorem test_decode_asm : decode cfg4 [0x14, 0b1, 0b10001010, 100] = .ok (.asm 0x8A 100) := by rfl
theorem test_decode_poll_end : decode cfg4 [0x15, 1] = .ok .pollEnd := by rfl
theorem test_decode_end_poll_measurement : decode cfg4 [0x16, 1, 1, 0x39, 0x30, 0, 0] =
    .ok (.endPoll (.measurement 12345)) := by rfl
theorem test_decode_end_poll_error : decode cfg4 [0x16, 1, 2, 3] = .ok (.endPoll (.errorReport 3)) := by rfl
theorem test_decode_chk : decode cfg4 (0x20 :: [0xAA, 0, 0, 0x20, 0, 1, 0, 1, 0x23, 0x45, 0, 0, 0x8A]) =
    .ok (.chk frameA) := by rfl
theorem test_decode_bcd32 : decode cfg4 [0x21, 0x01, 0x23, 0x45, 0x06] = .ok (.bcd32 #v[0x01, 0x23, 0x45, 0x06]) := by
  rfl
theorem test_decode_decode_frame : decode cfg4 (0x22 :: [0xAA, 0, 0, 0x20, 0, 1, 0, 1, 0x23, 0x45, 0, 0, 0x8A]) =
    .ok (.decodeFrame frameA) := by rfl
theorem test_decode_laser_on : decode cfg4 [0x40, 0xAA, 0x00, 0x01, 0xBE, 0x00, 0x01, 0x00, 0x01, 0xC1] =
    .ok .cmdLaserOn := by rfl
theorem test_decode_laser_off : decode cfg4 [0x40, 0xAA, 0x00, 0x01, 0xBE, 0x00, 0x01, 0x00, 0x00, 0xC0] =
    .ok .cmdLaserOff := by rfl
theorem test_decode_quick_read : decode cfg4 [0x40, 0xAA, 0x00, 0x00, 0x22, 0x00, 0x01, 0x00, 0x00, 0x23] =
    .ok .cmdQuickRead := by rfl
theorem test_decode_strobe_low : decode cfg4 [0x00, 0, 0x5A] = .error .patternMismatch := by rfl
theorem test_decode_other_header : decode cfg4 (0x30 :: frameNoHeader.toList) = .error .patternMismatch := by rfl
theorem test_decode_unknown_command : decode cfg4 (0x40 :: [0xAA, 0, 1, 0xBE, 0, 1, 0, 1, 0xC0]) =
    .error .unknownCommand := by rfl
theorem test_decode_wide_measurement : decode cfg4 [0x16, 1, 1, 0, 0, 0, 0x10] = .error .badResult := by rfl
theorem test_decode_short : decode cfg4 [0x14, 1, 0x8A] = .error .badLength := by rfl
theorem test_decode_wide_time : decode { cfg4 with wT := 7 } [0x12, 1, 0x80] = .error .timeTooWide := by rfl
theorem test_decode_unknown_selector : decode cfg4 [0x50] = .error .unknownSelector := by rfl
theorem test_decode_empty : decode cfg4 [] = .error .emptyRecord := by rfl

/-! The ring (95_test_vectors.md 2.1). -/

/-- V3: the wrap at a `C` that is not a power of two. -/
theorem test_rxwrite_wraps :
    (nextOf (exec (.rxwrite 0x01) { small with cfg := { cfg4 with capacity := 10 }, head := 9 })).map
      (fun u => (u.ring, u.head)) = some ([(9, 0x01)], 0) := by decide
/-- P6 case c in small: the oldest unread byte is overwritten without a signal (R101). -/
theorem test_rxwrite_overwrites :
    (nextOf (exec (.rxwrite 0x99) raced)).map (fun u => (Memory.read u.ring 3, u.head, u.tail)) =
      some (some 0x99, 0, 3) := by decide
/-- V5: AVAIL across the end of the region. -/
theorem test_snap_avail :
    (nextOf (exec .snap { State.reset with head := 2, tail := 250 })).map (fun u => (u.hsnap, u.phase, avail u)) =
      some (2, .draining, 8) := by decide
/-- V6 and P9: POLL.START takes HEAD even when there is nothing to drain. -/
theorem test_poll_start_empty :
    (nextOf (exec .pollStart { State.reset with head := 77, tail := 77 })).map
      (fun u => (u.hsnap, avail u, u.delivered)) = some (77, 0, .nothing) := by decide
/-- V7 in small: the byte at the last index, and TAIL wraps to 0. -/
theorem test_drain_wraps :
    (nextOf (exec .drain polling)).map (fun u => (u.tail, u.delivered)) = some (0, .byte 0xAA) := by decide
/-- V8: no DRAIN at `TAIL = HSNAP`. -/
theorem test_drain_not_enabled : exec .drain { polling with tail := 1 } = .refused .regionDrained := by rfl

/-! The assembler (95_test_vectors.md 2.2). -/

/-- V14: a gap of exactly `T_STALE` is not stale. -/
theorem test_asm_gap_50 : asmOf 0x7F 150 (accumulating 3) =
    some (4, 150, (frameA.set 12 0).set 3 0x7F, .frameResult none) := by decide
/-- V16 (the same with V15's byte): one tick more drops the partial frame; the byte is judged in Searching. -/
theorem test_asm_gap_51 : asmOf 0xAA 151 (accumulating 3) = some (1, 151, frameA.set 12 0, .frameResult none) ∧
    asmOf 0x7F 151 (accumulating 3) = some (0, 151, frameA.set 12 0, .frameResult none) := by decide

/-! The validator and the decoder (95_test_vectors.md 2.3 to 2.5). -/

/-- V27 and V28: the sum wraps. -/
theorem test_chk_wraps :
    outOf (exec (.chk #v[0xAA, 0xFF, 0xFF, 0xFF, 0xFF, 0xFF, 0xFF, 0xFF, 0xFF, 0xFF, 0xFF, 0xFF, 0xF5]) small) =
      some (.chkResult true) ∧
    outOf (exec (.chk #v[0xAA, 0xFF, 0xFF, 0xFF, 0xFF, 0xFF, 0xFF, 0xFF, 0xFF, 0xFF, 0xFF, 0xFF, 0xF4]) small) =
      some (.chkResult false) := by decide
/-- V30: byte 0 is not summed. -/
theorem test_chk_skips_header : outOf (exec (.chk frameNoHeader) small) = some (.chkResult true) := by decide
/-- S1 / V35. -/
theorem test_bcd32_document : outOf (exec (.bcd32 #v[0x01, 0x23, 0x45, 0x06]) small) = some (.bcdResult 1234506) := by
  decide
/-- V40 and V41: nibbles that are not decimal. -/
theorem test_bcd32_not_decimal :
    outOf (exec (.bcd32 #v[0x1A, 0x2B, 0x3C, 0x4D]) small) = some (.bcdResult 20314253) ∧
    outOf (exec (.bcd32 #v[0xFF, 0xFF, 0xFF, 0xFF]) small) = some (.bcdResult 166666665) := by decide
/-- V53. -/
theorem test_dec_badchk : latched (.decBadchk frameA') = some (.frameResult none, some 9) := by decide
/-- S4. -/
theorem test_dec_meas20 : latched (.decMeas20 frameA) = some (.frameResult (some (.measurement 12345)), none) := by
  decide
/-- V43. -/
theorem test_dec_meas21 : latched (.decMeas21 frame21) = some (.frameResult (some (.measurement 99999999)), none) := by
  decide
/-- V44. -/
theorem test_dec_meas22 : latched (.decMeas22 frame22) = some (.frameResult (some (.measurement 25000)), none) := by
  decide
/-- V46: byte 6 ignored, byte 7 unmasked. -/
theorem test_dec_err_ee :
    latched (.decErrEe #v[0xAA, 0, 0, 0xEE, 0, 0, 0x12, 0x34, 0, 0, 0, 0, 0x34]) =
      some (.frameResult (some (.errorReport 0x34)), some 0x34) := by decide
/-- V48: error 0 is not "none". -/
theorem test_dec_err_heur :
    latched (.decErrHeur #v[0xAA, 0, 0, 0, 0, 0, 0, 0, 0, 0, 0, 0, 0]) =
      some (.frameResult (some (.errorReport 0)), some 0) := by decide
/-- V50. -/
theorem test_dec_discard : latched (.decDiscard frameDiscard) = some (.frameResult none, some 9) := by decide
/-- V55: the heuristic under an unknown function code, the same payload as frame A. -/
theorem test_decode_frame_heuristic :
    latched (.decodeFrame #v[0xAA, 0, 0, 0x1F, 0, 1, 0, 1, 0x23, 0x45, 0, 0, 0x89]) =
      some (.frameResult (some (.errorReport 1)), some 1) := by decide
/-- V54: one past the Measurement codes. -/
theorem test_decode_frame_discards :
    latched (.decodeFrame #v[0xAA, 0, 0, 0x23, 0, 1, 1, 0, 0, 0, 0, 0, 0x25]) = some (.frameResult none, some 9) := by
  decide

/-! The poll and the host operations (95_test_vectors.md 2.6). -/

/-- V17 as a byte step: the thirteenth byte ends the poll with the Measurement. -/
theorem test_poll_step_ends :
    (nextOf (exec (.pollStep 100) { accumulating 12 with ring := [(3, 0x8A)], lerrV := true })).map
      (fun u => (u.tail, u.pos, u.phase, pollResult u)) = some (0, 0, .idle, some (.measurement 12345)) ∧
    (nextOf (exec (.pollStep 100) { accumulating 12 with ring := [(3, 0x8A)], lerrV := true })).map
      (fun u => (u.lbt, u.lerrV, u.delivered)) = some (100, false, .pollDone) := ⟨rfl, rfl⟩
/-- P9: a byte step without a result leaves the poll in progress. -/
theorem test_poll_step_goes_on :
    (nextOf (exec (.pollStep 200) polling)).map (fun u => (u.tail, u.pos, u.phase, u.delivered)) =
      some (0, 1, .draining, .nothing) := by decide
/-- V60 in small: both bytes drained, `NoData`. -/
theorem test_poll_no_data :
    (nextOf (exec (.poll 7 [9]) { polling with phase := .idle })).map
      (fun u => (u.tail, u.pos, u.lbt, pollResult u)) = some (1, 2, 9, some .noData) := rfl
/-- V59 in small: the frame's last byte, the gap exactly `T_STALE`; the byte behind it stays unread (R179). -/
theorem test_poll_measures :
    (nextOf (exec (.poll 150 []) { accumulating 12 with ring := [(0, 0x01), (3, 0x8A)], phase := .idle })).map
      (fun u => (u.tail, u.pos, u.lbt, pollResult u)) = some (0, 0, 150, some (.measurement 12345)) := rfl
/-- V6 and R178. -/
theorem test_poll_end : (nextOf (exec .pollEnd { polling with tail := 1 })).map
    (fun u => (u.phase, pollResult u, u.delivered)) = some (.idle, some .noData, .pollDone) := rfl
/-- R179, R97: a Measurement is kind 1, an Error Report kind 2. -/
theorem test_end_poll :
    (nextOf (exec (.endPoll (.measurement 25000)) polling)).map (fun u => (u.phase, u.resKind, u.resMm)) =
      some (.idle, 1, 25000) ∧
    (nextOf (exec (.endPoll (.errorReport 0x34)) polling)).map (fun u => (u.phase, u.resKind, u.resCode)) =
      some (.idle, 2, 0x34) := ⟨rfl, rfl⟩
/-- V63 and V57. -/
theorem test_getlasterror :
    outOf (exec .getlasterror { small with lerrV := true, lerrCode := 3 }) = some (.latch (some 3)) ∧
    outOf (exec .getlasterror { small with lerrCode := 3 }) = some (.latch none) := by decide
/-- V62 in small: RESET during a poll. -/
theorem test_reset :
    (nextOf (exec .reset { accumulating 7 with lerrV := true, lerrCode := 3, resKind := 2 })).map
      (fun u => (u.head, u.tail, u.pos, u.lerrV, u.phase)) = some (0, 0, 0, false, .idle) ∧
    (nextOf (exec .reset { accumulating 7 with lerrV := true, lerrCode := 3, resKind := 2 })).map
      (fun u => (u.resKind, u.delivered)) = some (0, .nothing) := ⟨rfl, rfl⟩
/-- S3. -/
theorem test_commands :
    outOf (exec .cmdLaserOn small) = some (.sent [0xAA, 0, 1, 0xBE, 0, 1, 0, 1, 0xC1]) ∧
    outOf (exec .cmdLaserOff small) = some (.sent [0xAA, 0, 1, 0xBE, 0, 1, 0, 0, 0xC0]) ∧
    outOf (exec .cmdQuickRead small) = some (.sent [0xAA, 0, 0, 0x22, 0, 1, 0, 0, 0x23]) := by decide

/-! The step. -/

/-- A requested byte is received by the next step, and the request is gone. -/
theorem test_step_runs : (nextOf (step { small with pending := [[[0x00, 1, 0x5A]]] })).map
    (fun u => (u.ring, u.head, u.pending)) = some ([(0, 0x5A)], 1, []) := by decide
/-- R207: the RESET of an instant comes before the byte written in the list before it. -/
theorem test_step_reset_first : (nextOf (step { small with head := 3, pending := [[[0x00, 1, 0x5A], [0x03, 1]]] })).map
    (fun u => (u.head, u.ring, u.pending)) = some (0, [], [[[0x00, 1, 0x5A]]]) := rfl
/-- R159: a frame class is no step of its own: from reset, where no ASM step completes it, it does not run. -/
theorem test_step_frame_needs_asm : step { small with pending := [[0x30 :: frameE.toList]] } =
    .refused .notInAsm := by rfl
/-- A table word placed for the next step is the instruction that runs. -/
theorem test_fetch_word :
    (nextOf (step (State.reset.withFetchWord 104 0xAA0000EE0000000300000000F1))).map
      (fun u => (u.delivered, u.lerrV, u.lerrCode)) = some (.frameResult (some (.errorReport 3)), true, 3) := by decide

/-! Witnesses: for every statement with hypotheses, a state and operands that meet all of them. -/

theorem test_witness_invariant_step : ∃ u, State.Inv { polling with pending := [[[0x12, 1, 200]]] } ∧
    step { polling with pending := [[[0x12, 1, 200]]] } = .next u ∧ u.pos = 1 :=
  ⟨_, by decide, rfl, rfl⟩
theorem test_witness_no_fault : State.Inv { polling with pending := [[[0x13, 1]]] } ∧
    nextOf (step { polling with pending := [[[0x13, 1]]] }) ≠ none := by decide
theorem test_witness_agree :
    State.Agree { small with pending := [[[0x01, 1, 5]]] } { small with hsnap := 3, lbt := 9, pending := [[[0x01, 1, 5]]] } ∧
    outOf (step { small with pending := [[[0x01, 1, 5]]] }) = some .pollDone :=
  ⟨by unfold State.Agree; decide, rfl⟩
theorem test_witness_reset_agrees : ∃ u, State.reset.cfg = Config.standard ∧ exec .reset State.reset = .next u :=
  ⟨_, rfl, rfl⟩
theorem test_witness_only_writers : ∃ u, exec (.rxwrite 1) polling = .next u ∧ u.ring ≠ polling.ring :=
  ⟨_, rfl, by decide⟩
theorem test_witness_only_writers_poll : ∃ u, exec .pollEnd { polling with tail := 1 } = .next u ∧ u.phase = .idle :=
  ⟨_, rfl, rfl⟩
theorem test_witness_encode : cfg4.Valid ∧ (Instr.poll 255 [0, 255]).wellFormed cfg4 = true := by decide
theorem test_witness_decode : decode cfg4 [0x01, 1, 255, 0, 255] = .ok (.poll 255 [0, 255]) := rfl
/-- Twelve bytes of frame E in FBUF, its last byte drained, and its record requested. -/
def completing : State :=
  { accumulating 12 with fbuf := frameE.set 12 0, pending := [[0x30 :: frameE.toList]], byteStep := .drained 0xF1 }

theorem test_witness_step_runs :
    takeRequest cfg4 [[[0x13, 1], [0x50]]] = some ([0x13, 1], [[[0x50]]]) ∧ decode cfg4 [0x13, 1] = .ok .drain ∧
    frameAtCompletion .drain = none ∧ inPlace .drain polling = true ∧ inPlace .drain completing = false :=
  ⟨by decide, rfl, rfl, rfl, rfl⟩
theorem test_witness_step_frame :
    takeRequest cfg4 completing.pending = some (0x30 :: frameE.toList, []) ∧
    decode cfg4 (0x30 :: frameE.toList) = .ok (.decErrEe frameE) ∧
    frameAtCompletion (.decErrEe frameE) = some frameE ∧ AwaitsLastByte frameE completing ∧
    completing.lbt < 2 ^ completing.cfg.wT ∧ ¬ AwaitsLastByte frameE { completing with pos := 0 } :=
  ⟨by decide, rfl, rfl, by decide, by decide, by decide⟩
theorem test_witness_error_latch : ∃ u, completing.lerrV = false ∧ stepAll 1 completing = .next u ∧ u.lerrV = true ∧
    Classified completing u (.errorReport 3) ∧ u.lerrCode = 3 := ⟨_, rfl, rfl, rfl, by decide, rfl⟩
/-- R179: a requested END_POLL(ErrorReport(3)) does not run: no ASM step returned it. -/
theorem test_step_end_poll_needs_asm :
    step { polling with pending := [[[0x16, 1, 2, 3]]] } = .refused .notInByteStep := by rfl
/-- R177: the drained byte is the one that ASM takes. -/
theorem test_step_drain_hands_over : (nextOf (step { polling with pending := [[[0x13, 1]]] })).map
    (fun u => (u.byteStep, u.tail)) = some (.drained 0xAA, 0) := by decide

/-- ASM has returned ErrorReport(3), and END_POLL of it is requested. -/
def returned : State :=
  { polling with pending := [[[0x16, 1, 2, 3]]], byteStep := .returned (.errorReport 3), lerrV := true, lerrCode := 3 }

theorem test_witness_byte_step_end : ∃ u, step returned = .next u ∧
    nextRequest returned = some (.endPoll (.errorReport 3)) := ⟨_, rfl, rfl⟩
theorem test_witness_byte_step_drain : ∃ u, step { polling with pending := [[[0x13, 1]]] } = .next u ∧
    nextRequest { polling with pending := [[[0x13, 1]]] } = some .drain := ⟨_, rfl, rfl⟩
theorem test_witness_byte_step_asm :
    ∃ u, step { polling with pending := [[[0x14, 1, 0xAA, 5]]], byteStep := .drained 0xAA } = .next u ∧
      nextRequest { polling with pending := [[[0x14, 1, 0xAA, 5]]] } = some (.asm 0xAA 5) := ⟨_, rfl, rfl⟩
theorem test_witness_byte_step_poll_step : ∃ u, step { polling with pending := [[[0x12, 1, 5]]] } = .next u ∧
    nextRequest { polling with pending := [[[0x12, 1, 5]]] } = some (.pollStep 5) := ⟨_, rfl, rfl⟩
theorem test_witness_byte_step_poll_end :
    ∃ u, step { polling with tail := 1, pending := [[[0x15, 1]]] } = .next u ∧
      nextRequest { polling with tail := 1, pending := [[[0x15, 1]]] } = some .pollEnd := ⟨_, rfl, rfl⟩

/-- Twelve bytes of frame E in FBUF, the thirteenth in RING, and the parts of its byte step requested. -/
def parted : State :=
  { accumulating 12 with
    fbuf := frameE.set 12 0, ring := [(3, 0xF1)], pending := [[[0x13, 1]], [[0x14, 1, 0xF1, 100]], [[0x16, 1, 2, 3]]] }

theorem test_witness_end_poll_after_asm : parted.byteStep = .outside ∧ ∃ v w, stepAll 2 parted = .next v ∧
    nextRequest v = some (.endPoll (.errorReport 3)) ∧ step v = .next w ∧ w.delivered = .pollDone :=
  ⟨rfl, _, _, rfl, rfl, rfl, rfl⟩
theorem test_witness_whole_poll_one_step : ∃ u,
    State.Inv { polling with phase := .idle, pending := [[[0x01, 1, 7]]] } ∧
    WholePoll 1 { polling with phase := .idle, pending := [[[0x01, 1, 7]]] } u :=
  ⟨_, by decide, by decide, rfl, rfl, rfl, rfl, fun k _ h h' => absurd h' (by omega)⟩
theorem test_witness_whole_poll_steps : ∃ u,
    State.Inv { small with pending := [[[0x10, 1]], [[0x15, 1]]] } ∧
    WholePoll 2 { small with pending := [[[0x10, 1]], [[0x15, 1]]] } u := by
  refine ⟨_, by decide, by decide, rfl, rfl, rfl, rfl, fun k a h h' ha => ?_⟩
  obtain rfl : k = 1 := by omega
  cases ha
  rfl
theorem test_witness_step_undecodable :
    takeRequest cfg4 [[], [[0x50]]] = some ([0x50], []) ∧ decode cfg4 [0x50] = .error .unknownSelector :=
  ⟨by decide, rfl⟩
theorem test_witness_step_idle : takeRequest cfg4 [[], []] = none := by decide
theorem test_witness_reset_first :
    [0x03, 1] ∈ ([[0x13, 1], [0x03, 1]] : List Record) ∧ decode cfg4 [0x03, 1] = .ok .reset := ⟨by decide, rfl⟩
theorem test_witness_reset_absent :
    ∀ x ∈ ([[0x13, 1], [0x15, 1]] : List Record), decode cfg4 x ≠ .ok .reset := by decide
theorem test_witness_rxwrite : polling.head < polling.cfg.capacity ∧ { polling with head := 3 }.head + 1 = cfg4.capacity := by
  decide
theorem test_witness_rxwrite_tail : ∃ u, exec (.rxwrite 7) polling = .next u := ⟨_, rfl⟩
theorem test_witness_in_order : small.head < small.cfg.capacity ∧
    ([0x01, 0x02, 0x03, 0x04] : List Byte).length ≤ small.cfg.capacity := by decide
theorem test_witness_snap : small.phase = .idle := rfl
theorem test_witness_busy : polling.phase = .draining := rfl
theorem test_witness_conditions :
    (polling.phase = .draining ∧ polling.tail ≠ polling.hsnap) ∧
    ({ polling with tail := 1 }.phase = .draining ∧ { polling with tail := 1 }.tail = polling.hsnap) := by decide
theorem test_witness_drain : polling.phase = .draining ∧ polling.tail ≠ polling.hsnap ∧
    polling.tail < polling.cfg.capacity ∧ Memory.read polling.ring polling.tail = some 0xAA := by decide
theorem test_witness_drains : polling.Inv ∧ polling.phase = .draining ∧ 2 < polling.cfg.capacity ∧
    (polling.tail + 2) % polling.cfg.capacity = polling.hsnap := by decide
theorem test_witness_race : raced.phase = .draining ∧ raced.tail ≠ raced.hsnap ∧ raced.head = raced.tail ∧
    raced.tail < raced.cfg.capacity ∧ Memory.read raced.ring raced.tail = some 0xAA := by decide
theorem test_witness_commutes : polling.Inv ∧ polling.phase = .draining ∧ polling.tail ≠ polling.hsnap ∧
    polling.head ≠ polling.tail := by decide
theorem test_witness_lost : small.head < small.cfg.capacity ∧ small.head = small.tail ∧ small.phase = .idle ∧
    ([1, 2, 3, 4] : List Byte).length = small.cfg.capacity := by decide
theorem test_witness_asm_searching : polling.phase = .draining ∧ polling.pos = 0 ∧ 255 < 2 ^ polling.cfg.wT := by
  decide
theorem test_witness_asm_stores_first : (accumulating 1).phase = .draining ∧ 1 ≤ (accumulating 1).pos.toNat ∧
    (accumulating 1).pos.toNat ≤ 11 ∧ 150 < 2 ^ (accumulating 1).cfg.wT ∧
    gapOf (accumulating 1).cfg 150 (accumulating 1).lbt ≤ (accumulating 1).cfg.tStale := by decide
theorem test_witness_asm_stores_last : (accumulating 11).pos.toNat ≤ 11 ∧
    gapOf (accumulating 11).cfg 100 (accumulating 11).lbt = 0 := by decide
theorem test_witness_asm_completes : (accumulating 12).phase = .draining ∧ (accumulating 12).pos = 12 ∧
    100 < 2 ^ (accumulating 12).cfg.wT ∧
    gapOf (accumulating 12).cfg 100 (accumulating 12).lbt ≤ (accumulating 12).cfg.tStale := by decide
theorem test_witness_asm_stale : (accumulating 12).phase = .draining ∧ 1 ≤ (accumulating 12).pos.toNat ∧
    (accumulating 12).pos.toNat ≤ 12 ∧ 151 < 2 ^ (accumulating 12).cfg.wT ∧
    ((accumulating 12).cfg.tStale : Int) < gapOf (accumulating 12).cfg 151 (accumulating 12).lbt := by decide
theorem test_witness_asm_stale_backwards :
    ((accumulating 1).cfg.tStale : Int) < gapOf (accumulating 1).cfg 99 (accumulating 1).lbt := by decide
theorem test_witness_asm_depends : ∃ u, polling.phase = .draining ∧ raced.phase = .draining ∧
    polling.cfg = raced.cfg ∧ polling.head ≠ raced.head ∧ exec (.asm 0xAA 5) polling = .next u :=
  ⟨_, rfl, rfl, rfl, by decide, rfl⟩
theorem test_witness_lbt_unobservable : { polling with lbt := 200 }.pos = 0 := rfl

/-- Frame A at clock samples 0, 50, 100, …, each gap at the threshold, the 8-bit clock wrapping. -/
def samplesA : Vector Nat 13 := #v[0, 50, 100, 150, 200, 250, 44, 94, 144, 194, 244, 38, 88]

theorem test_witness_resync_searching : polling.phase = .draining ∧ polling.pos.toNat ≤ 12 ∧ polling.pos = 0 ∧
    (∀ g ∈ ([(0x55, 3), (0x00, 200)] : List (Byte × Nat)), g.1 ≠ 0xAA) ∧ frameA[0] = 0xAA ∧
    (∀ k : Fin 12, gapOf polling.cfg samplesA[k.val + 1] samplesA[k.val] ≤ polling.cfg.tStale) := by decide
theorem test_witness_resync_stale : (accumulating 12).phase = .draining ∧ (accumulating 12).pos.toNat ≤ 12 ∧
    (∀ x ∈ (([] : List (Byte × Nat)) ++ frameA.toList.zip samplesA.toList).head?,
      ((accumulating 12).cfg.tStale : Int) < gapOf (accumulating 12).cfg x.2 (accumulating 12).lbt) := by decide
theorem test_witness_chk_one_byte : (0x02 : Byte) ≠ frameA[(5 : Fin 13)] ∧
    exec (.chk frameA) small = .next { small with delivered := .chkResult true } := ⟨by decide, rfl⟩
theorem test_witness_chk_order :
    let g := (frameA.set 8 0x45).set 9 0x23
    ((frameA.toList.drop 1).take 11).Perm ((g.toList.drop 1).take 11) ∧ frameA[12] = g[12] ∧ frameA ≠ g := by decide
theorem test_witness_bcd_decimal :
    (∀ k : Fin 4, (#v[0x99, 0x00, 0x45, 0x99] : Payload)[k].toNat / 16 ≤ 9 ∧
      (#v[0x99, 0x00, 0x45, 0x99] : Payload)[k].toNat % 16 ≤ 9) ∧
    exec (.bcd32 #v[0x99, 0x00, 0x45, 0x99]) small = .next { small with delivered := .bcdResult 99004599 } :=
  ⟨by decide, rfl⟩
theorem test_witness_class : decode cfg4 (selFrame :: frameHeur.toList) = .ok (.decErrHeur frameHeur) := rfl
theorem test_witness_unused_fields :
    let g := (frameHeur.set 1 0x00).set 10 0x01
    exec (.chk frameHeur) small = exec (.chk g) small ∧ frameHeur ≠ g ∧ frameHeur[2] = g[2] ∧ frameHeur[3] = g[3] ∧
      frameHeur[6] = g[6] ∧ frameHeur[7] = g[7] ∧ frameHeur[8] = g[8] ∧ frameHeur[9] = g[9] :=
  ⟨rfl, by decide, rfl, rfl, rfl, rfl, rfl, rfl⟩
theorem test_witness_latch_none : ∃ u, exec (.asm 0x8B 100) (accumulating 12) = .next u ∧
    u.delivered = .frameResult none := ⟨_, rfl, by decide⟩
theorem test_witness_latch_measurement : ∃ u, exec (.asm 0x8A 100) (accumulating 12) = .next u ∧
    u.delivered = .frameResult (some (.measurement 12345)) := ⟨_, rfl, by decide⟩
theorem test_witness_latch_error : ∃ u, exec (.asm 0xF1 100) { accumulating 12 with fbuf := frameE } = .next u ∧
    u.delivered = .frameResult (some (.errorReport 3)) := ⟨_, rfl, by decide⟩
theorem test_witness_poll_step : polling.phase = .draining ∧ polling.tail ≠ polling.hsnap ∧
    polling.tail < polling.cfg.capacity ∧ Memory.read polling.ring polling.tail = some 0xAA ∧
    polling.pos.toNat ≤ 12 := by decide
theorem test_witness_poll_end : { polling with tail := 1 }.phase = .draining ∧
    { polling with tail := 1 }.tail = { polling with tail := 1 }.hsnap := by decide
theorem test_witness_poll : State.Inv { polling with phase := .idle } ∧ { polling with phase := .idle }.phase = .idle := by
  decide
theorem test_witness_poll_empty : small.phase = .idle ∧ small.tail = small.head := by decide
theorem test_witness_poll_latch_no_data : ∃ u, exec (.poll 7 []) { polling with phase := .idle } = .next u ∧
    pollResult u = some .noData := ⟨_, rfl, rfl⟩
theorem test_witness_poll_latch_measurement :
    ∃ u, exec (.poll 100 []) { accumulating 12 with ring := [(3, 0x8A)], phase := .idle } = .next u ∧
      pollResult u = some (.measurement 12345) := ⟨_, rfl, rfl⟩
theorem test_witness_poll_latch_error :
    ∃ u, exec (.poll 100 []) { accumulating 12 with fbuf := frameE, ring := [(3, 0xF1)], phase := .idle } = .next u ∧
      pollResult u = some (.errorReport 3) := ⟨_, rfl, rfl⟩

end Sys2Proof.Tests
end

/-! Proofs of the ring statements (40_ring.md): what RXWRITE, SNAP, POLL.START and DRAIN answer where they are enabled,
said once per instruction, and the obligations as uses of these rules. -/

namespace Sys2Proof.Machine

/-! The answers of the ring instructions. -/

/-- 40_ring.md R100. -/
theorem exec_rxwrite_of_lt (b : Byte) {s : State} (hHead : s.head < s.cfg.capacity) :
    exec (.rxwrite b) s =
      .next { s with ring := Memory.write s.ring s.head b, head := nextIndex s.cfg s.head, delivered := .nothing } := by
  change andThen (storeReceived b s) (fun s1 => .next (deliver .nothing s1)) = _
  rw [storeReceived_of_lt b s hHead]
  rfl

/-- 40_ring.md R103. -/
theorem exec_snap_of_idle {s : State} (hIdle : s.phase = .idle) :
    exec .snap s = .next { s with hsnap := s.head, phase := .draining, delivered := .nothing } := by
  change andThen (snapHead s) (fun s1 => .next (deliver .nothing s1)) = _
  rw [snapHead_of_idle hIdle]
  rfl

/-- 44_poll.md R176: POLL.START performs SNAP and nothing more, enabled or not. -/
theorem exec_pollStart_eq_snap (s : State) : exec .pollStart s = exec .snap s := rfl

/-- 40_ring.md R105. -/
theorem exec_drain_of_readable {s : State} {b : Byte} (hDraining : s.phase = .draining) (hUnread : s.tail ≠ s.hsnap)
    (hTail : s.tail < s.cfg.capacity) (hByte : Memory.read s.ring s.tail = some b) :
    exec .drain s = .next { s with tail := nextIndex s.cfg s.tail, delivered := .byte b } := by
  change andThen (drainByte s) (fun d => .next (deliver (.byte d.1) d.2)) = _
  rw [drainByte_of_readable hDraining hUnread hTail hByte]
  rfl

/-! The obligations. -/

/-- Settles O19: the next state is the one of `exec_rxwrite_of_lt`, and its RING is read by the two laws of a read after
a write. -/
theorem rxwriteStoresAtHeadAndAdvances : Obligations.RxwriteStoresAtHeadAndAdvances := by
  intro b s hHead
  refine ⟨_, exec_rxwrite_of_lt b hHead, rfl, ?atHead, ?elsewhere⟩
  case atHead => exact Memory.read_write_same s.ring s.head b
  case elsewhere => exact fun i hi => Memory.read_write_other s.ring s.head i b hi

/-- Settles O22: SNAP takes HEAD in IDLE, and POLL.START is that SNAP. -/
theorem snapTakesTheHead : Obligations.SnapTakesTheHead := by
  intro s hIdle
  have hSnap := exec_snap_of_idle hIdle
  exact ⟨hSnap, (exec_pollStart_eq_snap s).trans hSnap⟩

/-- Settles O25, by the rule of an enabled DRAIN. -/
theorem drainTakesTheByteAtTail : Obligations.DrainTakesTheByteAtTail := by
  intro s b hDraining hUnread hTail hByte
  exact exec_drain_of_readable hDraining hUnread hTail hByte

end Sys2Proof.Machine

/-! Proofs of the assembler statements (41_assembler.md): what ASM answers where the byte is judged in Searching, where
it is stored and where it completes the frame, said once per line of R126; then what a list of bytes fed to ASM does. -/

namespace Sys2Proof.Machine

/-! The answers of ASM. -/

/-- ASM as a step of a poll in progress (R120). -/
theorem exec_asm_of_draining {s : State} (hDraining : s.phase = .draining) (b : Byte) (t : Nat) :
    exec (.asm b t) s = andThen (assemble b t s) (fun r => .next (deliver (.frameResult r.1) r.2)) := by
  change execAsm b t s = _
  simp only [execAsm, hDraining]

/-- The state after an ASM step that stamps LBT with the sample `t`, leaves FBUF and POS as given and returns none. -/
def State.returningNone (s : State) (t : Nat) (fbuf : Frame) (pos : BitVec 4) : State :=
  { s with lbt := sampleTime s.cfg t, fbuf := fbuf, pos := pos, delivered := .frameResult none }

/-- R121, R123: a byte sampled at `t` is judged as one arriving in Searching. -/
def State.SearchesAt (s : State) (t : Nat) : Prop :=
  s.pos = 0 ∨ (s.cfg.tStale : Int) < gapOf s.cfg t s.lbt

/-- R121: whether a candidate is dropped or there was none, POS is 0 for the lines that follow. -/
theorem dropStale_of_searchesAt {s : State} {t : Nat} (hSearch : s.SearchesAt t) :
    dropStale t s = { s with pos := 0 } := by
  rw [dropStale, isStale_eq]
  by_cases hPos : s.pos = 0
  · rw [hPos, if_neg (by simp), ← hPos]
  · rw [if_pos (Bool.and_eq_true_iff.mpr ⟨bne_iff_ne.mpr hPos, decide_eq_true (hSearch.resolve_left hPos)⟩)]

/-- R121: within the threshold nothing is dropped. -/
theorem dropStale_of_gap_le {s : State} {t : Nat} (hGap : gapOf s.cfg t s.lbt ≤ s.cfg.tStale) :
    dropStale t s = s := by
  rw [dropStale, isStale_eq, if_neg (by simp [not_lt.mpr hGap])]

/-- R123: in Searching a byte that is not the header is discarded. -/
theorem exec_asm_discards {s : State} {b : Byte} {t : Nat} (hDraining : s.phase = .draining)
    (hSearch : s.SearchesAt t) (hByte : b ≠ 0xAA) : exec (.asm b t) s = .next (s.returningNone t s.fbuf 0) := by
  rw [exec_asm_of_draining hDraining, assemble, dropStale_of_searchesAt hSearch, if_pos]
  · rfl
  · simpa [isSearching, isHeader, headerByte] using hByte

/-- R123, R124: in Searching the header becomes byte 0 of a candidate. -/
theorem exec_asm_starts_candidate {s : State} {t : Nat} (hDraining : s.phase = .draining) (hSearch : s.SearchesAt t) :
    exec (.asm 0xAA t) s = .next (s.returningNone t (s.fbuf.set 0 0xAA) 1) := by
  rw [exec_asm_of_draining hDraining, assemble, dropStale_of_searchesAt hSearch]
  rfl

theorem completeFrame_of_not_full {s : State} (hPos : s.pos ≠ 13) : completeFrame s = (none, s) :=
  if_neg (by simpa [isFull] using hPos)

theorem completeFrame_of_full {s : State} (hPos : s.pos = 13) :
    completeFrame s = ((decodeFrame s.fbuf s).1, { (decodeFrame s.fbuf s).2 with pos := 0 }) :=
  if_pos (by simpa [isFull] using hPos)

/-- R124: in Accumulating and within the threshold any byte is stored at POS, and the frame is completed if it is full. -/
theorem assemble_of_accumulating {s : State} {b : Byte} {t n : Nat} (hPos : s.pos.toNat = n + 1) (hRange : n + 1 < 13)
    (hGap : gapOf s.cfg t s.lbt ≤ s.cfg.tStale) :
    assemble b t s =
      .next (completeFrame { s with lbt := sampleTime s.cfg t, fbuf := s.fbuf.set (n + 1) b, pos := s.pos + 1 }) := by
  have hNotSearching : isSearching s.pos = false := by
    rw [isSearching, beq_eq_false_iff_ne]
    intro hZero
    simp [hZero] at hPos
  rw [assemble, dropStale_of_gap_le hGap, stampTime_pos, hNotSearching, Bool.false_and, if_neg Bool.false_ne_true,
    storeByte_of_lt b (stampTime t s) (by rw [stampTime_pos]; omega), andThen_next]
  simp only [stampTime_pos, hPos]
  rfl

/-- R124, R126: before the thirteenth byte ASM stores and returns none. -/
theorem exec_asm_stores {s : State} {b : Byte} {t n : Nat} (hDraining : s.phase = .draining)
    (hPos : s.pos.toNat = n + 1) (hRange : n + 1 < 12) (hGap : gapOf s.cfg t s.lbt ≤ s.cfg.tStale) :
    exec (.asm b t) s = .next (s.returningNone t (s.fbuf.set (n + 1) b) (s.pos + 1)) := by
  rw [exec_asm_of_draining hDraining, assemble_of_accumulating hPos (by omega) hGap, completeFrame_of_not_full]
  · rfl
  · show s.pos + 1 ≠ 13
    bv_omega

/-- R125: the thirteenth byte hands the frame to DECODE_FRAME, and POS goes back to 0. -/
theorem exec_asm_completes {s : State} {b : Byte} {t : Nat} (hDraining : s.phase = .draining)
    (hPos : s.pos.toNat = 12) (hGap : gapOf s.cfg t s.lbt ≤ s.cfg.tStale) :
    ∃ w, w.lerrV = s.lerrV ∧ w.lerrCode = s.lerrCode ∧ w.fbuf = s.fbuf.set 12 b ∧
      exec (.asm b t) s =
        .next (deliver (.frameResult (decodeFrame w.fbuf w).1) { (decodeFrame w.fbuf w).2 with pos := 0 }) := by
  refine ⟨{ s with lbt := sampleTime s.cfg t, fbuf := s.fbuf.set 12 b, pos := s.pos + 1 }, rfl, rfl, rfl, ?_⟩
  rw [exec_asm_of_draining hDraining, assemble_of_accumulating hPos (by omega) hGap, completeFrame_of_full]
  · rfl
  · show s.pos + 1 = 13
    bv_omega

/-- R159: DECODE_FRAME judges the frame alone, and of the state it reads and writes only the latch. -/
theorem decodeFrame_congr (f : Frame) {s w : State} (hValid : w.lerrV = s.lerrV) (hCode : w.lerrCode = s.lerrCode) :
    (decodeFrame f w).1 = (decodeFrame f s).1 ∧ (decodeFrame f w).2.lerrV = (decodeFrame f s).2.lerrV ∧
      (decodeFrame f w).2.lerrCode = (decodeFrame f s).2.lerrCode := by
  unfold decodeFrame
  split
  · split
    · exact ⟨rfl, rfl, hCode⟩
    · split
      · exact ⟨rfl, rfl, rfl⟩
      · exact ⟨rfl, hValid, hCode⟩
  · exact ⟨rfl, hValid, hCode⟩

/-! Bytes fed to ASM. -/

/-- What every ASM step that returns none leaves as it was, of the things later steps depend on (R127, R160). -/
structure State.UndisturbedIn (s w : State) : Prop where
  cfg : w.cfg = s.cfg
  phase : w.phase = s.phase
  lerrV : w.lerrV = s.lerrV
  lerrCode : w.lerrCode = s.lerrCode

theorem State.UndisturbedIn.refl (s : State) : s.UndisturbedIn s := ⟨rfl, rfl, rfl, rfl⟩

theorem State.UndisturbedIn.trans {s v w : State} (hv : s.UndisturbedIn v) (hw : v.UndisturbedIn w) :
    s.UndisturbedIn w :=
  ⟨hw.cfg.trans hv.cfg, hw.phase.trans hv.phase, hw.lerrV.trans hv.lerrV, hw.lerrCode.trans hv.lerrCode⟩

theorem State.undisturbedIn_returningNone (s : State) (t : Nat) (fbuf : Frame) (pos : BitVec 4) :
    s.UndisturbedIn (s.returningNone t fbuf pos) := ⟨rfl, rfl, rfl, rfl⟩

/-- Bytes fed in two parts. -/
theorem feedAsm_append {xs ys : List (Byte × Nat)} {s v w : State} {ds es : List Delivered}
    (hFirst : feedAsm xs s = .next (ds, v)) (hSecond : feedAsm ys v = .next (es, w)) :
    feedAsm (xs ++ ys) s = .next (ds ++ es, w) := by
  induction xs generalizing s ds with
  | nil =>
    cases hFirst
    exact hSecond
  | cons x xs ih =>
    obtain ⟨s1, hStep, hRest⟩ := andThen_eq_next.mp hFirst
    obtain ⟨⟨ds1, v1⟩, hFeed, hOut⟩ := andThen_eq_next.mp hRest
    cases hOut
    simp [feedAsm, hStep, ih hFeed]

theorem feedAsm_singleton {b : Byte} {t : Nat} {s u : State} (hStep : exec (.asm b t) s = .next u) :
    feedAsm [(b, t)] s = .next ([u.delivered], u) := by
  simp [feedAsm, hStep]

/-- R131: the first of the bytes to come, if there is one, is judged as one arriving in Searching. -/
def State.SearchesFor (s : State) (xs : List (Byte × Nat)) : Prop :=
  s.pos = 0 ∨ ∀ x ∈ xs.head?, (s.cfg.tStale : Int) < gapOf s.cfg x.2 s.lbt

theorem State.SearchesFor.at_head {s : State} {x : Byte × Nat} {xs : List (Byte × Nat)} (h : s.SearchesFor xs)
    (hHead : xs.head? = some x) : s.SearchesAt x.2 :=
  h.imp id fun hStale => hStale x hHead

/-- R131: garbage is discarded byte by byte, and what follows it is still judged as in Searching. -/
theorem feedAsm_garbage {gs rest : List (Byte × Nat)} {s : State} (hDraining : s.phase = .draining)
    (hSearch : s.SearchesFor (gs ++ rest)) (hGarbage : ∀ g ∈ gs, g.1 ≠ 0xAA) :
    ∃ w, feedAsm gs s = .next (List.replicate gs.length (.frameResult none), w) ∧ s.UndisturbedIn w ∧
      w.SearchesFor rest ∧ (gs ≠ [] ∨ s.pos = 0 → w.pos = 0) := by
  induction gs generalizing s with
  | nil => exact ⟨s, rfl, .refl s, hSearch, fun h => h.resolve_left (absurd rfl)⟩
  | cons g gs ih =>
    obtain ⟨hHead, hTail⟩ := List.forall_mem_cons.mp hGarbage
    have hStep := exec_asm_discards hDraining (hSearch.at_head rfl) hHead
    have hKept := s.undisturbedIn_returningNone g.2 s.fbuf 0
    obtain ⟨w, hFeed, hRest, hNext, hPos⟩ := ih (hKept.phase.trans hDraining) (.inl rfl) hTail
    exact ⟨w, feedAsm_append (feedAsm_singleton hStep) hFeed, hKept.trans hRest, hNext, fun _ => hPos (.inr rfl)⟩

/-- The bytes of a frame with their clock samples. -/
abbrev sampled (f : Frame) (ts : Vector Nat 13) : List (Byte × Nat) := f.toList.zip ts.toList

theorem head?_sampled (f : Frame) (ts : Vector Nat 13) : (sampled f ts).head? = some (f[0], ts[0]) := by
  rw [List.head?_eq_getElem?, List.getElem?_eq_getElem (by simp)]
  simp

theorem sampled_take_succ (f : Frame) (ts : Vector Nat 13) (n : Nat) (hn : n < 13) :
    (sampled f ts).take (n + 1) = (sampled f ts).take n ++ [(f[n], ts[n])] := by
  rw [List.take_succ_eq_append_getElem (by simpa using hn)]
  simp

/-- R124: from `s` on, ASM has taken the bytes 0 to `n` of `f` as those of a candidate, the last one sampled at `t`. -/
structure State.Holds (s w : State) (f : Frame) (t n : Nat) : Prop where
  kept : s.UndisturbedIn w
  pos : w.pos.toNat = n + 1
  lbt : w.lbt = sampleTime s.cfg t
  fbuf : ∀ i (_ : i < 13), i ≤ n → w.fbuf[i] = f[i]

theorem State.Holds.first (s : State) (f : Frame) (t : Nat) :
    s.Holds (s.returningNone t (s.fbuf.set 0 f[0]) 1) f t 0 := by
  refine ⟨s.undisturbedIn_returningNone _ _ _, rfl, rfl, fun i _ hi => ?_⟩
  obtain rfl : i = 0 := by omega
  exact Vector.getElem_set_self _

/-- The buffer after one more byte of the frame is stored. -/
theorem State.Holds.getElem_set {s w : State} {f : Frame} {t n i : Nat} (h : s.Holds w f t n) (hn : n + 1 < 13)
    (hi : i < 13) (hLe : i ≤ n + 1) : (w.fbuf.set (n + 1) f[n + 1])[i] = f[i] := by
  rw [Vector.getElem_set]
  split
  case isTrue hEq => simp only [hEq]
  case isFalse hNe => exact h.fbuf i hi (by omega)

theorem State.Holds.next {s w : State} {f : Frame} {t n : Nat} (h : s.Holds w f t n) (hn : n + 1 < 12) (t' : Nat) :
    s.Holds (w.returningNone t' (w.fbuf.set (n + 1) f[n + 1]) (w.pos + 1)) f t' (n + 1) where
  kept := h.kept.trans (w.undisturbedIn_returningNone _ _ _)
  pos := by
    have hPos := h.pos
    show (w.pos + 1).toNat = n + 1 + 1
    bv_omega
  lbt := congrArg (sampleTime · t') h.kept.cfg
  fbuf _ hi hLe := h.getElem_set (by omega) hi hLe

/-- R125: the last byte makes FBUF the whole frame. -/
theorem State.Holds.set_last {s w : State} {f : Frame} {t : Nat} (h : s.Holds w f t 11) : w.fbuf.set 12 f[12] = f :=
  Vector.ext fun _ hi => h.getElem_set (by omega) hi (by omega)

/-- R121, R122: the gap of the next byte is measured from the last byte stored. -/
theorem State.Holds.gap_le {s w : State} {f : Frame} {t t' n : Nat} (h : s.Holds w f t n)
    (hGap : gapOf s.cfg t' t ≤ s.cfg.tStale) : gapOf w.cfg t' w.lbt ≤ w.cfg.tStale := by
  rwa [h.lbt, h.kept.cfg, gapOf_sampleTime]

/-- R124, R131: the bytes of a frame before the last are stored in order where no gap is stale. -/
theorem feedAsm_accumulates {s : State} {f : Frame} {ts : Vector Nat 13} (hDraining : s.phase = .draining)
    (hSearch : s.SearchesFor (sampled f ts)) (hHeader : f[0] = 0xAA)
    (hGaps : ∀ k : Fin 12, gapOf s.cfg ts[k.val + 1] ts[k.val] ≤ s.cfg.tStale) (n : Nat) (hn : n < 12) :
    ∃ w, feedAsm ((sampled f ts).take (n + 1)) s = .next (List.replicate (n + 1) (.frameResult none), w) ∧
      s.Holds w f ts[n] n := by
  induction n with
  | zero =>
    have hStep := exec_asm_starts_candidate hDraining (hSearch.at_head (head?_sampled f ts))
    rw [← hHeader] at hStep
    refine ⟨_, ?_, .first s f ts[0]⟩
    rw [sampled_take_succ f ts 0 (by omega)]
    exact feedAsm_singleton hStep
  | succ n ih =>
    obtain ⟨w, hFeed, hHolds⟩ := ih (by omega)
    have hStep := exec_asm_stores (b := f[n + 1]) (hHolds.kept.phase.trans hDraining) hHolds.pos hn
      (hHolds.gap_le (hGaps ⟨n, by omega⟩))
    refine ⟨_, ?_, hHolds.next hn ts[n + 1]⟩
    rw [sampled_take_succ f ts (n + 1) (by omega), List.replicate_succ' (n := n + 1)]
    exact feedAsm_append hFeed (feedAsm_singleton hStep)

/-- R131: a frame whose first byte is judged in Searching, with no stale gap within, is handed to DECODE_FRAME. -/
theorem feedAsm_frame {s : State} {f : Frame} {ts : Vector Nat 13} (hDraining : s.phase = .draining)
    (hSearch : s.SearchesFor (sampled f ts)) (hHeader : f[0] = 0xAA)
    (hGaps : ∀ k : Fin 12, gapOf s.cfg ts[k.val + 1] ts[k.val] ≤ s.cfg.tStale) :
    ∃ u, feedAsm (sampled f ts) s = .next (List.replicate 12 (.frameResult none) ++ [u.delivered], u) ∧
      u.delivered = .frameResult (decodeFrame f s).1 ∧ u.lerrV = (decodeFrame f s).2.lerrV ∧
      u.lerrCode = (decodeFrame f s).2.lerrCode ∧ u.pos = 0 ∧ u.fbuf = f := by
  obtain ⟨w, hFeed, hHolds⟩ := feedAsm_accumulates hDraining hSearch hHeader hGaps 11 (by omega)
  obtain ⟨v, hValid, hCode, hFbuf, hStep⟩ :=
    exec_asm_completes (b := f[12]) (t := ts[12]) (hHolds.kept.phase.trans hDraining) hHolds.pos
      (hHolds.gap_le (hGaps 11))
  rw [hHolds.set_last] at hFbuf
  obtain ⟨hResult, hLatched, hLatch⟩ :=
    decodeFrame_congr f (hValid.trans hHolds.kept.lerrV) (hCode.trans hHolds.kept.lerrCode)
  have hAll : sampled f ts = (sampled f ts).take 12 ++ [(f[12], ts[12])] := by
    rw [← sampled_take_succ f ts 12 (by omega), List.take_of_length_le (by simp)]
  rw [hFbuf] at hStep
  refine ⟨deliver _ { (decodeFrame f v).2 with pos := 0 }, ?_, congrArg Delivered.frameResult hResult, hLatched, hLatch,
    rfl, ?_⟩
  · rw [hAll]
    exact feedAsm_append hFeed (feedAsm_singleton hStep)
  · show (decodeFrame f v).2.fbuf = f
    rw [decodeFrame_frame]
    exact hFbuf

/-! The obligations. -/

/-- Settles O36: the garbage is discarded (`feedAsm_garbage`, also for its first `k` bytes), and the frame behind it is
accumulated and decoded (`feedAsm_frame`). -/
theorem aFrameAfterGarbageIsDecoded : Obligations.AFrameAfterGarbageIsDecoded := by
  intro s gs f ts hDraining _ hSearch hGarbage hHeader hGaps
  refine ⟨fun k hk hLe => ?leading, ?whole⟩
  case leading =>
    have hSplit : s.SearchesFor (gs.take k ++ (gs.drop k ++ sampled f ts)) := by
      rwa [← List.append_assoc, List.take_append_drop]
    obtain ⟨w, hFeed, -, -, hPos⟩ :=
      feedAsm_garbage hDraining hSplit fun g hg => hGarbage g (List.mem_of_mem_take hg)
    rw [List.length_take_of_le hLe] at hFeed
    have hNonempty : gs.take k ≠ [] := List.ne_nil_of_length_pos (by rw [List.length_take_of_le hLe]; exact hk)
    exact ⟨w, hFeed, hPos (.inl hNonempty)⟩
  case whole =>
    obtain ⟨w, hFeed, hKept, hNext, -⟩ := feedAsm_garbage hDraining hSearch hGarbage
    obtain ⟨u, hFrame, hResult, hValid, hCode, hPos, hFbuf⟩ :=
      feedAsm_frame (hKept.phase.trans hDraining) hNext hHeader (by rwa [hKept.cfg])
    obtain ⟨hSame, hSameValid, hSameCode⟩ := decodeFrame_congr f hKept.lerrV hKept.lerrCode
    refine ⟨u, _, ?_, rfl, ?_, hValid.trans hSameValid, hCode.trans hSameCode, hPos, hFbuf⟩
    · rw [List.replicate_add, List.append_assoc]
      exact feedAsm_append hFeed hFrame
    · rw [hResult, hSame]
      rfl

/-- Settles O30: with POS 0 a byte is judged in Searching, and a sample of `W_T` bits is stamped as it is. -/
theorem asmSearchesForTheHeader : Obligations.AsmSearchesForTheHeader := by
  intro s b t hDraining hPos hTime
  split
  case isTrue hByte =>
    rw [hByte, exec_asm_starts_candidate hDraining (.inl hPos), State.returningNone, sampleTime_of_lt hTime]
  case isFalse hByte =>
    rw [exec_asm_discards hDraining (.inl hPos) hByte, State.returningNone, sampleTime_of_lt hTime, ← hPos]

end Sys2Proof.Machine

/-! Proofs of the validator statements (42_validator.md): what CHK answers, and its verdict in plain numbers. -/

namespace Sys2Proof.Machine

/-- R140: CHK delivers the verdict of `chkOk`, and writes nothing else. -/
theorem exec_chk (f : Frame) (s : State) : exec (.chk f) s = .next { s with delivered := .chkResult (chkOk f) } := rfl

/-- Settles O37: CHK delivers `chkOk`, and `chkOk` in plain numbers is the sum of bytes 1 to 11 modulo 256 against
byte 12. -/
theorem chkComparesTheSumWithByteTwelve : Obligations.ChkComparesTheSumWithByteTwelve := by
  intro f s
  rw [exec_chk, chkOk_eq]

end Sys2Proof.Machine

/-! Proofs of the decoder statements (43_decoder.md): what BCD32 answers, the three outcomes a frame can have, and the
tests of DECODE_FRAME in plain numbers. -/

namespace Sys2Proof.Machine

/-! BCD32. -/

/-- R150: BCD32 delivers the number of `bcd32`, and writes nothing else. -/
theorem exec_bcd32 (p : Payload) (s : State) : exec (.bcd32 p) s = .next { s with delivered := .bcdResult (bcd32 p) } :=
  rfl

/-- R85: the number of a frame in plain numbers. -/
theorem bcd32_payload (f : Frame) : bcd32 (payload f) = BitVec.ofNat 28 (bcdOf f[6] f[7] f[8] f[9]) :=
  congrArg (BitVec.ofNat 28) (bcdValue_eq (payload f))

/-! The outcomes of a frame, shared by DECODE_FRAME and the frame classes. -/

/-- The answer of an instruction that judges a frame: the state after, with the optional result delivered. -/
def answerFrame (r : Option Result × State) : Res State := .next (deliver (.frameResult r.1) r.2)

/-- R143, R158. -/
theorem answerFrame_dropFrame (s : State) :
    answerFrame (dropFrame s) = .next { s with delivered := .frameResult none } := rfl

/-- R153. -/
theorem answerFrame_takeMeasurement (f : Frame) (s : State) :
    answerFrame (takeMeasurement f s) =
      .next { s with lerrV := false, delivered := .frameResult (some (.measurement (bcd32 (payload f)))) } := rfl

/-- R156: byte 7 is taken whole (R86). -/
theorem answerFrame_takeErrorReport (f : Frame) (s : State) :
    answerFrame (takeErrorReport f s) =
      .next { s with lerrV := true, lerrCode := f[7], delivered := .frameResult (some (.errorReport f[7])) } := rfl

theorem exec_decMeas20 (f : Frame) (s : State) : exec (.decMeas20 f) s = answerFrame (takeMeasurement f s) := rfl
theorem exec_decMeas21 (f : Frame) (s : State) : exec (.decMeas21 f) s = answerFrame (takeMeasurement f s) := rfl
theorem exec_decMeas22 (f : Frame) (s : State) : exec (.decMeas22 f) s = answerFrame (takeMeasurement f s) := rfl
theorem exec_decErrEe (f : Frame) (s : State) : exec (.decErrEe f) s = answerFrame (takeErrorReport f s) := rfl
theorem exec_decErrHeur (f : Frame) (s : State) : exec (.decErrHeur f) s = answerFrame (takeErrorReport f s) := rfl
theorem exec_decodeFrame (f : Frame) (s : State) : exec (.decodeFrame f) s = answerFrame (decodeFrame f s) := rfl

/-! The tests of DECODE_FRAME. -/

/-- R29 `chk_ok`. -/
theorem chkOk_iff (f : Frame) : chkOk f = true ↔ sumOf f % 256 = f[12].toNat := by
  rw [chkOk_eq, decide_eq_true_iff]

/-- R29 `is_meas`. -/
theorem isMeas_iff (f : Frame) : isMeas f = true ↔ f[3] = 0x20 ∨ f[3] = 0x21 ∨ f[3] = 0x22 := by
  simp only [isMeas, fn, fnMeas20, fnMeas21, fnMeas22, Bool.or_eq_true, beq_iff_eq, or_assoc]

/-- R157: the limit is unsigned, and not itself an error code. -/
theorem isErrHeur_iff (f : Frame) : isErrHeur f = true ↔ f[2] = 0x00 ∧ f[6] = 0x00 ∧ f[7].toNat < 0x20 := by
  rw [isErrHeur, Bool.and_eq_true, Bool.and_eq_true, beq_iff_eq, beq_iff_eq, decide_eq_true_iff, and_assoc]
  rfl

/-- R29 `is_err`. -/
theorem isErr_iff (f : Frame) :
    isErr f = true ↔ f[3] = 0xEE ∨ (f[2] = 0x00 ∧ f[6] = 0x00 ∧ f[7].toNat < 0x20) := by
  rw [isErr, Bool.or_eq_true, isErrHeur_iff, beq_iff_eq]
  rfl

/-! DECODE_FRAME, one rule per line of R159. -/

theorem decodeFrame_of_bad_sum {f : Frame} (hSum : sumOf f % 256 ≠ f[12].toNat) (s : State) :
    decodeFrame f s = dropFrame s := by
  rw [decodeFrame, if_neg (mt (chkOk_iff f).mp hSum)]

theorem decodeFrame_of_measurement {f : Frame} (hSum : sumOf f % 256 = f[12].toNat)
    (hMeas : f[3] = 0x20 ∨ f[3] = 0x21 ∨ f[3] = 0x22) (s : State) : decodeFrame f s = takeMeasurement f s := by
  rw [decodeFrame, if_pos ((chkOk_iff f).mpr hSum), if_pos ((isMeas_iff f).mpr hMeas)]

theorem decodeFrame_of_error {f : Frame} (hSum : sumOf f % 256 = f[12].toNat)
    (hNotMeas : ¬ (f[3] = 0x20 ∨ f[3] = 0x21 ∨ f[3] = 0x22))
    (hErr : f[3] = 0xEE ∨ (f[2] = 0x00 ∧ f[6] = 0x00 ∧ f[7].toNat < 0x20)) (s : State) :
    decodeFrame f s = takeErrorReport f s := by
  rw [decodeFrame, if_pos ((chkOk_iff f).mpr hSum), if_neg (mt (isMeas_iff f).mp hNotMeas),
    if_pos ((isErr_iff f).mpr hErr)]

theorem decodeFrame_of_other {f : Frame} (hSum : sumOf f % 256 = f[12].toNat)
    (hNotMeas : ¬ (f[3] = 0x20 ∨ f[3] = 0x21 ∨ f[3] = 0x22))
    (hNotErr : ¬ (f[3] = 0xEE ∨ (f[2] = 0x00 ∧ f[6] = 0x00 ∧ f[7].toNat < 0x20))) (s : State) :
    decodeFrame f s = dropFrame s := by
  rw [decodeFrame, if_pos ((chkOk_iff f).mpr hSum), if_neg (mt (isMeas_iff f).mp hNotMeas),
    if_neg (mt (isErr_iff f).mp hNotErr)]

/-! The obligations. -/

/-- Settles O44: both classes take the Error Report of byte 7. -/
theorem errorFramesReportByteSeven : Obligations.ErrorFramesReportByteSeven := by
  intro f s
  rw [exec_decErrEe, exec_decErrHeur, answerFrame_takeErrorReport]
  exact ⟨rfl, rfl⟩

/-- Settles O40: the 28 bits hold the weighted sum (`bcd32_toNat`), since it is at most 166 666 665 (`bcdOf_le`). -/
theorem bcdIsTheSumOfWeightedNibbles : Obligations.BcdIsTheSumOfWeightedNibbles := by
  intro p s
  have hSum := bcd32_toNat p
  have hBound : (bcd32 p).toNat ≤ 166666665 := hSum ▸ bcdOf_le p[0] p[1] p[2] p[3]
  exact ⟨bcd32 p, exec_bcd32 p s, hSum, hBound⟩

/-- Settles O43: the three classes take the Measurement of the payload, bytes 6 to 9. -/
theorem measurementFramesGiveMillimetres : Obligations.MeasurementFramesGiveMillimetres := by
  intro f s
  have hNumber : (bcd32 (payload f)).toNat = bcdOf f[6] f[7] f[8] f[9] := bcd32_toNat (payload f)
  refine ⟨bcd32 (payload f), hNumber, ?_⟩
  rw [exec_decMeas20, exec_decMeas21, exec_decMeas22, answerFrame_takeMeasurement]
  exact ⟨rfl, rfl, rfl⟩

/-- Settles O42: the tests of R159 in their order, each branch by its rule and the answer of its outcome. -/
theorem decodeFrameDecidesInOrder : Obligations.DecodeFrameDecidesInOrder := by
  intro f s
  rw [exec_decodeFrame]
  split
  case isTrue hBad => rw [decodeFrame_of_bad_sum hBad, answerFrame_dropFrame]
  case isFalse hNotBad =>
    have hSum := not_not.mp hNotBad
    split
    case isTrue hMeas => rw [decodeFrame_of_measurement hSum hMeas, answerFrame_takeMeasurement, bcd32_payload]
    case isFalse hNotMeas =>
      split
      case isTrue hErr => rw [decodeFrame_of_error hSum hNotMeas hErr, answerFrame_takeErrorReport]
      case isFalse hNotErr => rw [decodeFrame_of_other hSum hNotMeas hNotErr, answerFrame_dropFrame]

end Sys2Proof.Machine

/-! Proofs of the poll statements (44_poll.md): the requests that start a poll all begin with the SNAP, so its refusal in
DRAINING is said once and carried to each; and GETLASTERROR, which reads the latch in either PHASE. -/

namespace Sys2Proof.Machine

/-! The answers of the requests that start a poll, and of GETLASTERROR. -/

/-- 40_ring.md R103: HEAD is read in IDLE only, once per poll. -/
theorem snapHead_of_draining {s : State} (hDraining : s.phase = .draining) : snapHead s = .refused .pollBusy := by
  simp only [snapHead, hDraining]

/-- 40_ring.md R103, outside IDLE. -/
theorem exec_snap_of_draining {s : State} (hDraining : s.phase = .draining) :
    exec .snap s = .refused .pollBusy := by
  change andThen (snapHead s) (fun s1 => .next (deliver .nothing s1)) = _
  rw [snapHead_of_draining hDraining, andThen_refused]

/-- 44_poll.md R183: the SNAP of a POLL is refused before its loop begins. -/
theorem exec_poll_of_draining {s : State} (hDraining : s.phase = .draining) (t : Nat) (ts : List Nat) :
    exec (.poll t ts) s = .refused .pollBusy := by
  change andThen (snapHead s) (fun s1 => pollLoop (avail s1) t ts s1) = _
  rw [snapHead_of_draining hDraining, andThen_refused]

/-- 44_poll.md R185: the answer does not depend on PHASE. -/
theorem exec_getlasterror (s : State) :
    exec .getlasterror s = .next { s with delivered := .latch (latchValue s) } := rfl

/-- 10_state.md R28: the latch is some(code) when LERR_V is 1, else none. -/
theorem latchValue_eq (s : State) : latchValue s = if s.lerrV = true then some s.lerrCode else none := rfl

/-! The obligations. -/

/-- Settles O23: each of the three begins with the SNAP, which is refused in DRAINING; POLL.START is that SNAP. -/
theorem pollRequestWhileBusyIsRefused : Obligations.PollRequestWhileBusyIsRefused := by
  intro s t ts hDraining
  have hSnap := exec_snap_of_draining hDraining
  exact ⟨exec_poll_of_draining hDraining t ts, (exec_pollStart_eq_snap s).trans hSnap, hSnap⟩

/-- Settles O58: the code delivered is the latch's value, and nothing else is written. -/
theorem getLastErrorReadsTheLatch : Obligations.GetLastErrorReadsTheLatch := by
  intro s
  rw [exec_getlasterror, latchValue_eq]

end Sys2Proof.Machine

/-! What each instruction answers, in terms of the shared operations of Ops, and the statements that are one of these
answers and no more: RESET, the commands, the enabling conditions of the Consumer's steps, the ends of a poll. -/

namespace Sys2Proof.Machine

/-! The arms of the dispatch. -/

theorem exec_rxwrite (b : Byte) (s : State) :
    exec (.rxwrite b) s = andThen (storeReceived b s) (fun u => .next (deliver .nothing u)) := rfl

theorem exec_snap (s : State) : exec .snap s = andThen (snapHead s) (fun u => .next (deliver .nothing u)) := rfl

theorem exec_drain (s : State) :
    exec .drain s = andThen (drainByte s) (fun d => .next (deliver (.byte d.1) d.2)) := rfl

theorem exec_pollStep (t : Nat) (s : State) : exec (.pollStep t) s = pollByte t s := rfl

theorem exec_poll (t : Nat) (ts : List Nat) (s : State) : exec (.poll t ts) s = pollWhole t ts s := rfl

theorem exec_reset (s : State) : exec .reset s = .next (deliver .nothing (resetBlock s)) := rfl

theorem exec_decBadchk (f : Frame) (s : State) : exec (.decBadchk f) s = answerFrame (dropFrame s) := rfl

theorem exec_decDiscard (f : Frame) (s : State) : exec (.decDiscard f) s = answerFrame (dropFrame s) := rfl

/-- R179: END_POLL needs a poll in progress. -/
theorem exec_endPoll_of_draining {s : State} (hDraining : s.phase = .draining) (x : Result) :
    exec (.endPoll x) s = .next (finishPoll x s) := by
  change execEndPoll x s = _
  simp only [execEndPoll, hDraining]

/-! The Consumer's operations outside their enabling condition. -/

theorem exec_asm_of_idle {s : State} (hIdle : s.phase = .idle) (b : Byte) (t : Nat) :
    exec (.asm b t) s = .refused .notDraining := by
  change execAsm b t s = _
  simp only [execAsm, hIdle]

theorem exec_endPoll_of_idle {s : State} (hIdle : s.phase = .idle) (x : Result) :
    exec (.endPoll x) s = .refused .notDraining := by
  change execEndPoll x s = _
  simp only [execEndPoll, hIdle]

theorem isEmpty_iff (s : State) : isEmpty s = true ↔ s.tail = s.hsnap := beq_iff_eq

theorem drainByte_of_idle {s : State} (hIdle : s.phase = .idle) : drainByte s = .refused .notDraining := by
  simp only [drainByte, hIdle]

/-- 40_ring.md R106. -/
theorem drainByte_of_drained {s : State} (hDraining : s.phase = .draining) (hEmpty : s.tail = s.hsnap) :
    drainByte s = .refused .regionDrained := by
  simp only [drainByte, hDraining, if_pos ((isEmpty_iff s).mpr hEmpty)]

theorem pollEmpty_of_idle {s : State} (hIdle : s.phase = .idle) : pollEmpty s = .refused .notDraining := by
  simp only [pollEmpty, hIdle]

theorem pollEmpty_of_not_drained {s : State} (hDraining : s.phase = .draining) (hUnread : s.tail ≠ s.hsnap) :
    pollEmpty s = .refused .regionNotDrained := by
  simp only [pollEmpty, hDraining, if_neg (mt (isEmpty_iff s).mp hUnread)]

/-- The state in which a poll ends with NoData: RES_MM and RES_CODE unspecified (R178, entry 8). -/
def State.endedEmpty (s : State) : State :=
  { s with resKind := 0, resMm := Config.freeResMm s.draws, resCode := Config.freeResCode s.draws,
           draws := s.draws + 1, phase := .idle, delivered := .pollDone }

theorem pollResult_endedEmpty (s : State) : pollResult s.endedEmpty = some .noData := rfl

/-- R178. -/
theorem pollEmpty_of_drained {s : State} (hDraining : s.phase = .draining) (hEmpty : s.tail = s.hsnap) :
    pollEmpty s = .next s.endedEmpty := by
  simp only [pollEmpty, hDraining, if_pos ((isEmpty_iff s).mpr hEmpty)]
  rfl

theorem pollByte_of_drain_refused {s : State} {e : Refusal} (hDrain : drainByte s = .refused e) (t : Nat) :
    pollByte t s = .refused e := by
  rw [pollByte, hDrain, andThen_refused]

/-- R181: the loop ends at once where the region is drained, whatever fuel is left. -/
theorem pollLoop_of_drained {s : State} (hEmpty : s.tail = s.hsnap) (n t : Nat) (ts : List Nat) :
    pollLoop n t ts s = pollEmpty s := by
  cases n with
  | zero => rfl
  | succ n => rw [pollLoop, if_pos ((isEmpty_iff s).mpr hEmpty)]

/-- R176, R181: a POLL from PHASE IDLE takes HEAD and enters the loop. -/
theorem exec_poll_of_idle {s : State} (hIdle : s.phase = .idle) (t : Nat) (ts : List Nat) :
    exec (.poll t ts) s =
      pollLoop (avail { s with hsnap := s.head, phase := .draining }) t ts
        { s with hsnap := s.head, phase := .draining } := by
  rw [exec_poll, pollWhole, snapHead_of_idle hIdle, andThen_next]

/-! The ends of a poll. -/

/-- R97: the result of END_POLL(x) is x. -/
theorem pollResult_finishPoll (x : Result) (s : State) : pollResult (finishPoll x s) = some (resultValue x) := by
  cases x <;> rfl

theorem finishPoll_delivered (x : Result) (s : State) : (finishPoll x s).delivered = .pollDone := by cases x <;> rfl

/-- R179: END_POLL writes RES_*, PHASE and the delivery (and the draw counter) and nothing else. -/
theorem finishPoll_frame (x : Result) (s : State) :
    finishPoll x s =
      { s with resKind := (finishPoll x s).resKind, resMm := (finishPoll x s).resMm,
               resCode := (finishPoll x s).resCode, draws := (finishPoll x s).draws, phase := .idle,
               delivered := .pollDone } := by
  cases x <;> rfl

/-! The obligations. -/

/-- Settles O5: RESET is `resetBlock`, each register of which is read off; an empty RING holds no value. -/
theorem resetGivesTheResetValues : Obligations.ResetGivesTheResetValues := by
  intro s
  exact ⟨_, exec_reset s, rfl, rfl, rfl, rfl, rfl, rfl, rfl, fun i => Memory.read_nil i, rfl, rfl, rfl⟩

/-- Settles O6: the registers Agree compares are those RESET gives their reset values, and those it leaves free are
compared only under conditions (POS, PHASE, LERR_V, RES_KIND) that RESET makes false. -/
theorem resetAgreesWithPowerUp : Obligations.ResetAgreesWithPowerUp := by
  intro s u hCfg hReset
  cases hReset
  refine ⟨hCfg, rfl, rfl, rfl, rfl, rfl, rfl, rfl, rfl, rfl, rfl, ?fbuf, ?lbt, ?hsnap, ?code, ?resMm, ?resCode⟩
  case fbuf => exact fun i hi => absurd hi (Nat.not_lt_zero _)
  case lbt => exact fun h => absurd rfl h
  case hsnap => exact nofun
  case code => exact nofun
  case resMm => exact fun h => absurd h (by decide : (0 : BitVec 2) ≠ 1)
  case resCode => exact fun h => absurd h (by decide : (0 : BitVec 2) ≠ 2)

/-- Settles O20: with TAIL replaced RXWRITE still finds HEAD in range, and its answer is the rule's for that state. -/
theorem rxwriteIgnoresTail : Obligations.RxwriteIgnoresTail := by
  intro b s u x hNext
  obtain ⟨v, hStored, hDelivered⟩ := andThen_eq_next.mp ((exec_rxwrite b s).symm.trans hNext)
  obtain ⟨hHead, rfl⟩ := storeReceived_eq_next hStored
  cases hDelivered
  exact exec_rxwrite_of_lt b (s := { s with tail := x }) hHead

/-- Settles O24: each step begins with the operation whose condition fails, and hands its refusal on. -/
theorem consumerStepsNeedTheirCondition : Obligations.ConsumerStepsNeedTheirCondition := by
  intro s b t x
  refine ⟨fun hIdle => ?idle, fun hDraining hEmpty => ?drained, fun hDraining hUnread => ?unread⟩
  case idle =>
    have hDrain := drainByte_of_idle hIdle
    refine ⟨?_, exec_asm_of_idle hIdle b t, pollByte_of_drain_refused hDrain t, pollEmpty_of_idle hIdle,
      exec_endPoll_of_idle hIdle x⟩
    rw [exec_drain, hDrain, andThen_refused]
  case drained =>
    have hDrain := drainByte_of_drained hDraining hEmpty
    refine ⟨?_, pollByte_of_drain_refused hDrain t⟩
    rw [exec_drain, hDrain, andThen_refused]
  case unread => exact pollEmpty_of_not_drained hDraining hUnread

/-- Settles O45: both classes drop the frame. -/
theorem droppedFramesChangeNothing : Obligations.DroppedFramesChangeNothing := by
  intro f s
  rw [exec_decBadchk, exec_decDiscard, answerFrame_dropFrame]
  exact ⟨rfl, rfl⟩

/-- Settles O50, by the rule of an enabled POLL.END. -/
theorem pollEndGivesNoData : Obligations.PollEndGivesNoData := by
  intro s hDraining hEmpty
  exact ⟨_, pollEmpty_of_drained hDraining hEmpty, rfl, pollResult_endedEmpty s⟩

/-- Settles O51: END_POLL is `finishPoll`, whose frame and result are said above; the payload register is the one that
the result names. -/
theorem endPollDeliversTheResult : Obligations.EndPollDeliversTheResult := by
  intro s x hDraining
  refine ⟨_, exec_endPoll_of_draining hDraining x, finishPoll_frame x s, pollResult_finishPoll x s, ?_, ?_⟩
  · rintro mm rfl
    exact ⟨rfl, rfl⟩
  · rintro code rfl
    exact ⟨rfl, rfl⟩

/-- Settles O52: the POLL port shows the Measurement, and its metres are millimetres over `MM_PER_M`. -/
theorem metresAreMillimetresOverAThousand : Obligations.MetresAreMillimetresOverAThousand := by
  intro s mm hDraining
  refine ⟨_, exec_endPoll_of_draining hDraining _, ?_⟩
  rw [pollMetres, pollResult_finishPoll]
  show some ((mm.toNat : ℚ) / (mmPerM : ℚ)) = _
  norm_num [mmPerM]

/-- Settles O56: the SNAP makes HSNAP equal TAIL, so the loop is a POLL.END. -/
theorem pollOfAnEmptyRegionIsNoData : Obligations.PollOfAnEmptyRegionIsNoData := by
  intro s t ts hIdle hEmpty
  refine ⟨({ s with hsnap := s.head, phase := .draining } : State).endedEmpty, ?_, pollResult_endedEmpty _, ?_⟩
  · rw [exec_poll_of_idle hIdle, pollLoop_of_drained hEmpty]
    exact pollEmpty_of_drained rfl hEmpty
  · rw [State.endedEmpty, ← hIdle]

/-- Settles O59: the three arms deliver the bytes of R92. -/
theorem commandsLeaveTheBlockAlone : Obligations.CommandsLeaveTheBlockAlone := by
  intro s
  exact ⟨rfl, rfl, rfl⟩

end Sys2Proof.Machine

/-! Proofs of the encoding statements (30_encoding.md): the decoder selector by selector, each row's decoder against its
encoder in both directions, and the FRAME13 rows read byte by byte. -/

namespace Sys2Proof

open Machine

/-! The decoder, selector by selector (entry 3). -/

theorem decode_selRx (c : Config) (body : Record) : decode c (selRx :: body) = decodeRx body := rfl
theorem decode_selPoll (c : Config) (body : Record) : decode c (selPoll :: body) = decodePoll c body := rfl
theorem decode_selLerr (c : Config) (body : Record) :
    decode c (selLerr :: body) = if body = [] then .ok .getlasterror else .error .badLength := rfl
theorem decode_selRst (c : Config) (body : Record) : decode c (selRst :: body) = decodePlain .reset body := rfl
theorem decode_selPollStart (c : Config) (body : Record) :
    decode c (selPollStart :: body) = decodePlain .pollStart body := rfl
theorem decode_selSnap (c : Config) (body : Record) : decode c (selSnap :: body) = decodePlain .snap body := rfl
theorem decode_selPollStep (c : Config) (body : Record) : decode c (selPollStep :: body) = decodePollStep c body := rfl
theorem decode_selDrain (c : Config) (body : Record) : decode c (selDrain :: body) = decodePlain .drain body := rfl
theorem decode_selAsm (c : Config) (body : Record) : decode c (selAsm :: body) = decodeAsm c body := rfl
theorem decode_selPollEnd (c : Config) (body : Record) :
    decode c (selPollEnd :: body) = decodePlain .pollEnd body := rfl
theorem decode_selEndPoll (c : Config) (body : Record) : decode c (selEndPoll :: body) = decodeEndPoll body := rfl
theorem decode_selChk (c : Config) (body : Record) : decode c (selChk :: body) = decodeFunc .chk body := rfl
theorem decode_selBcd32 (c : Config) (body : Record) : decode c (selBcd32 :: body) = decodeBcd32 body := rfl
theorem decode_selDecodeFrame (c : Config) (body : Record) :
    decode c (selDecodeFrame :: body) = decodeFunc .decodeFrame body := rfl
theorem decode_selFrame (c : Config) (body : Record) : decode c (selFrame :: body) = decodeFrameRecord body := rfl
theorem decode_selCmd (c : Config) (body : Record) : decode c (selCmd :: body) = decodeCmd body := rfl

/-! Decoding what was encoded. -/

/-- R93: a receive frame decodes to the class the table gives it. -/
theorem decode_frame_of_classify {f : Frame} {k : FrameClass} (hClass : classify f = some k) (c : Config) :
    decode c (selFrame :: f.toList) = .ok (k.instr f) := by
  rw [decode_selFrame, decodeFrameRecord, frameOf_toList]
  simp only [hClass]

theorem decodeFunc_toList {f : Frame} (hHeader : f[0] = headerByte) (make : Frame → Instr) :
    decodeFunc make f.toList = .ok (make f) := by
  rw [decodeFunc, frameOf_toList]
  exact if_pos hHeader

theorem decodePoll_encode {c : Config} {t : Nat} {ts : List Nat} (hValid : c.Valid)
    (hTimes : (t :: ts).all (timeFits c) = true) :
    decodePoll c (1 :: (t :: ts).flatMap (encodeTime c)) = .ok (.poll t ts) := by
  have hFuel : (t :: ts).length ≤ ((t :: ts).flatMap (encodeTime c)).length := by
    rw [Laws.samples_length]
    exact Nat.le_mul_of_pos_right _ (timeBytes_pos hValid)
  simp only [decodePoll, if_pos, decodeTimes_encode hValid (t :: ts) hTimes _ hFuel]

theorem decodePollStep_encode {c : Config} {t : Nat} (hTime : timeFits c t = true) :
    decodePollStep c (1 :: encodeTime c t) = .ok (.pollStep t) := by
  simp only [decodePollStep, if_pos, decodeTime_encodeTime hTime]

theorem decodeAsm_encode {c : Config} {b : Byte} {t : Nat} (hTime : timeFits c t = true) :
    decodeAsm c (1 :: b :: encodeTime c t) = .ok (.asm b t) := by
  simp only [decodeAsm, if_pos, decodeTime_encodeTime hTime]

/-- R97: four bytes hold the 28 bits of a Measurement. -/
theorem leValue_measurement (mm : BitVec 28) : leValue (leBytes 4 mm.toNat) = mm.toNat := by
  rw [leValue_leBytes, Nat.mod_eq_of_lt (lt_trans mm.isLt (by norm_num))]

theorem decodeEndPoll_encode (x : Result) : decodeEndPoll (1 :: encodeResult x) = .ok (.endPoll x) := by
  cases x with
  | measurement mm =>
    change (if (1 : Byte) = 1 then
        if (1 : Byte) = 1 ∧ leValue (leBytes 4 mm.toNat) < 2 ^ 28 then
          Except.ok (Instr.endPoll (.measurement (BitVec.ofNat 28 (leValue (leBytes 4 mm.toNat)))))
        else Except.error DecodeError.badResult
      else Except.error DecodeError.patternMismatch) = _
    rw [leValue_measurement, if_pos rfl, if_pos ⟨rfl, mm.isLt⟩, BitVec.ofNat_toNat, BitVec.setWidth_eq]
  | errorReport code => rfl

theorem decodeBcd32_toList (p : Payload) : decodeBcd32 p.toList = .ok (.bcd32 p) := by
  rw [payload_toList]
  simp only [decodeBcd32, Except.ok.injEq, Instr.bcd32.injEq]
  apply Vector.ext
  intro i hi
  interval_cases i <;> rfl

/-! Encoding what was decoded: one lemma per shape of record. -/

/-- The record is the one the encoder gives a well-formed instruction. -/
def IsRecordOf (c : Config) (r : Record) (i : Instr) : Prop := i.wellFormed c = true ∧ encode c i = r

theorem decodeRx_ok {c : Config} {body : Record} {i : Instr} (h : decodeRx body = .ok i) :
    IsRecordOf c (selRx :: body) i := by
  unfold decodeRx at h
  split at h
  · split at h
    case isTrue hStrobe =>
      cases h
      exact ⟨rfl, by rw [hStrobe]; rfl⟩
    case isFalse => cases h
  · cases h

theorem decodePoll_ok {c : Config} {body : Record} {i : Instr} (h : decodePoll c body = .ok i) :
    IsRecordOf c (selPoll :: body) i := by
  unfold decodePoll at h
  split at h
  · split at h
    case isTrue hStrobe =>
      split at h
      · cases h
      · cases h
      · rename_i hTimes
        cases h
        obtain ⟨hFit, hBytes⟩ := decodeTimes_ok hTimes
        exact ⟨by simpa [Instr.wellFormed] using hFit, by rw [encode, hBytes, hStrobe]⟩
    case isFalse => cases h
  · cases h

theorem decodePlain_ok {i j : Instr} {body : Record} (h : decodePlain i body = .ok j) : j = i ∧ body = [1] := by
  unfold decodePlain at h
  split at h
  · split at h
    case isTrue hStrobe =>
      cases h
      exact ⟨rfl, by rw [hStrobe]⟩
    case isFalse => cases h
  · cases h

/-- The rows without operands: the record is the selector and the strobe. -/
theorem decodePlain_record {c : Config} {i j : Instr} {sel : Byte} {body : Record} (h : decodePlain i body = .ok j)
    (hRecord : IsRecordOf c [sel, 1] i) : IsRecordOf c (sel :: body) j := by
  obtain ⟨rfl, rfl⟩ := decodePlain_ok h
  exact hRecord

theorem decodePollStep_ok {c : Config} {body : Record} {i : Instr} (h : decodePollStep c body = .ok i) :
    IsRecordOf c (selPollStep :: body) i := by
  unfold decodePollStep at h
  split at h
  · split at h
    case isTrue hPhase =>
      split at h
      · cases h
      · rename_i hTime
        cases h
        obtain ⟨hFit, hBytes⟩ := decodeTime_ok hTime
        exact ⟨hFit, by rw [encode, hBytes, hPhase]⟩
    case isFalse => cases h
  · cases h

theorem decodeAsm_ok {c : Config} {body : Record} {i : Instr} (h : decodeAsm c body = .ok i) :
    IsRecordOf c (selAsm :: body) i := by
  unfold decodeAsm at h
  split at h
  · split at h
    case isTrue hPhase =>
      split at h
      · cases h
      · rename_i hTime
        cases h
        obtain ⟨hFit, hBytes⟩ := decodeTime_ok hTime
        exact ⟨hFit, by rw [encode, hBytes, hPhase]⟩
    case isFalse => cases h
  · cases h

theorem decodeEndPoll_ok {c : Config} {body : Record} {i : Instr} (h : decodeEndPoll body = .ok i) :
    IsRecordOf c (selEndPoll :: body) i := by
  unfold decodeEndPoll at h
  split at h
  · split at h
    case isTrue hPhase =>
      split at h
      case isTrue hKind =>
        cases h
        exact ⟨rfl, by rw [hPhase, hKind]; rfl⟩
      case isFalse => cases h
    case isFalse => cases h
  · rename_i phase kind b0 b1 b2 b3
    split at h
    case isTrue hPhase =>
      split at h
      case isTrue hKind =>
        cases h
        obtain ⟨hKind, hWidth⟩ := hKind
        have hBytes : leBytes 4 (leValue [b0, b1, b2, b3]) = [b0, b1, b2, b3] := leBytes_leValue [b0, b1, b2, b3]
        refine ⟨rfl, ?_⟩
        rw [encode, encodeResult, BitVec.toNat_ofNat, Nat.mod_eq_of_lt hWidth, hBytes, hPhase, hKind]
      case isFalse => cases h
    case isFalse => cases h
  · cases h

theorem decodeFunc_ok {make : Frame → Instr} {body : Record} {i : Instr} (h : decodeFunc make body = .ok i) :
    ∃ f : Frame, f[0] = headerByte ∧ i = make f ∧ f.toList = body := by
  unfold decodeFunc at h
  split at h
  · cases h
  · rename_i f hFrame
    split at h
    case isTrue hHeader =>
      cases h
      exact ⟨f, hHeader, rfl, frameOf_eq_some hFrame⟩
    case isFalse => cases h

theorem decodeBcd32_ok {c : Config} {body : Record} {i : Instr} (h : decodeBcd32 body = .ok i) :
    IsRecordOf c (selBcd32 :: body) i := by
  unfold decodeBcd32 at h
  split at h
  · cases h
    exact ⟨rfl, rfl⟩
  · cases h

theorem decodeFrameRecord_ok {body : Record} {i : Instr} (h : decodeFrameRecord body = .ok i) :
    ∃ f k, classify f = some k ∧ i = k.instr f ∧ f.toList = body := by
  unfold decodeFrameRecord at h
  split at h
  · cases h
  · rename_i f hFrame
    split at h
    · cases h
    · rename_i k hClass
      cases h
      exact ⟨f, k, hClass, rfl, frameOf_eq_some hFrame⟩

/-- R93: the instruction of a class is well formed for the frames of that class, and its record is their bytes. -/
theorem FrameClass.isRecordOf_instr {f : Frame} {k : FrameClass} (hClass : classify f = some k) (c : Config) :
    IsRecordOf c (selFrame :: f.toList) (k.instr f) := by
  cases k <;> exact ⟨beq_iff_eq.mpr hClass, rfl⟩

theorem decodeCmd_ok {c : Config} {body : Record} {i : Instr} (h : decodeCmd body = .ok i) :
    IsRecordOf c (selCmd :: body) i := by
  unfold decodeCmd at h
  split at h
  case isTrue hOn =>
    cases h
    exact ⟨rfl, by rw [hOn]; rfl⟩
  case isFalse =>
    split at h
    case isTrue hOff =>
      cases h
      exact ⟨rfl, by rw [hOff]; rfl⟩
    case isFalse =>
      split at h
      case isTrue hRead =>
        cases h
        exact ⟨rfl, by rw [hRead]; rfl⟩
      case isFalse => split at h <;> cases h

/-! The obligations on decoding and encoding. -/

/-- Settles O8: one row after another; the frame classes by their classification, the clock samples by
`decodeTimes_encode`. -/
theorem decodeOfEncodeIsTheInstruction : Obligations.DecodeOfEncodeIsTheInstruction := by
  intro c i hValid hWf
  cases i with
  | decBadchk f => exact decode_frame_of_classify (beq_iff_eq.mp hWf) c
  | decMeas20 f => exact decode_frame_of_classify (beq_iff_eq.mp hWf) c
  | decMeas21 f => exact decode_frame_of_classify (beq_iff_eq.mp hWf) c
  | decMeas22 f => exact decode_frame_of_classify (beq_iff_eq.mp hWf) c
  | decErrEe f => exact decode_frame_of_classify (beq_iff_eq.mp hWf) c
  | decErrHeur f => exact decode_frame_of_classify (beq_iff_eq.mp hWf) c
  | decDiscard f => exact decode_frame_of_classify (beq_iff_eq.mp hWf) c
  | poll t ts => exact (decode_selPoll c _).trans (decodePoll_encode hValid hWf)
  | pollStep t => exact (decode_selPollStep c _).trans (decodePollStep_encode hWf)
  | asm b t => exact (decode_selAsm c _).trans (decodeAsm_encode hWf)
  | endPoll x => exact (decode_selEndPoll c _).trans (decodeEndPoll_encode x)
  | chk f => exact (decode_selChk c _).trans (decodeFunc_toList (beq_iff_eq.mp hWf) .chk)
  | bcd32 p => exact (decode_selBcd32 c _).trans (decodeBcd32_toList p)
  | decodeFrame f => exact (decode_selDecodeFrame c _).trans (decodeFunc_toList (beq_iff_eq.mp hWf) .decodeFrame)
  | rxwrite b => rfl
  | getlasterror => rfl
  | reset => rfl
  | pollStart => rfl
  | snap => rfl
  | drain => rfl
  | pollEnd => rfl
  | cmdLaserOn => rfl
  | cmdLaserOff => rfl
  | cmdQuickRead => rfl

/-- The sixteen selectors (entry 3): no record with another first byte decodes. -/
theorem selector_of_decode_ok {c : Config} {sel : Byte} {body : Record} {i : Instr}
    (h : decode c (sel :: body) = .ok i) :
    sel ∈ [selRx, selPoll, selLerr, selRst, selPollStart, selSnap, selPollStep, selDrain, selAsm, selPollEnd,
      selEndPoll, selChk, selBcd32, selDecodeFrame, selFrame, selCmd] := by
  by_contra hUnknown
  simp only [List.mem_cons, List.not_mem_nil, or_false, not_or] at hUnknown
  simp [decode, hUnknown] at h

/-- R93: what decodes is the record of what it decodes to, selector by selector. -/
theorem decode_ok {c : Config} {r : Record} {i : Instr} (h : decode c r = .ok i) : IsRecordOf c r i := by
  cases r with
  | nil => cases h
  | cons sel body =>
    have hSel := selector_of_decode_ok h
    simp only [List.mem_cons, List.not_mem_nil, or_false] at hSel
    rcases hSel with rfl | rfl | rfl | rfl | rfl | rfl | rfl | rfl | rfl | rfl | rfl | rfl | rfl | rfl | rfl | rfl
    · exact decodeRx_ok ((decode_selRx c body).symm.trans h)
    · exact decodePoll_ok ((decode_selPoll c body).symm.trans h)
    · rw [decode_selLerr] at h
      split at h
      case isTrue hBody =>
        cases h
        exact ⟨rfl, by rw [hBody]; rfl⟩
      case isFalse => cases h
    · exact decodePlain_record ((decode_selRst c body).symm.trans h) ⟨rfl, rfl⟩
    · exact decodePlain_record ((decode_selPollStart c body).symm.trans h) ⟨rfl, rfl⟩
    · exact decodePlain_record ((decode_selSnap c body).symm.trans h) ⟨rfl, rfl⟩
    · exact decodePollStep_ok ((decode_selPollStep c body).symm.trans h)
    · exact decodePlain_record ((decode_selDrain c body).symm.trans h) ⟨rfl, rfl⟩
    · exact decodeAsm_ok ((decode_selAsm c body).symm.trans h)
    · exact decodePlain_record ((decode_selPollEnd c body).symm.trans h) ⟨rfl, rfl⟩
    · exact decodeEndPoll_ok ((decode_selEndPoll c body).symm.trans h)
    · obtain ⟨f, hHeader, rfl, rfl⟩ := decodeFunc_ok ((decode_selChk c body).symm.trans h)
      exact ⟨beq_iff_eq.mpr hHeader, rfl⟩
    · exact decodeBcd32_ok ((decode_selBcd32 c body).symm.trans h)
    · obtain ⟨f, hHeader, rfl, rfl⟩ := decodeFunc_ok ((decode_selDecodeFrame c body).symm.trans h)
      exact ⟨beq_iff_eq.mpr hHeader, rfl⟩
    · obtain ⟨f, k, hClass, rfl, rfl⟩ := decodeFrameRecord_ok ((decode_selFrame c body).symm.trans h)
      exact FrameClass.isRecordOf_instr hClass c
    · exact decodeCmd_ok ((decode_selCmd c body).symm.trans h)

/-- Settles O9: `decode_ok`, which follows the decoder's own choice of row. -/
theorem everyDecodedRecordIsAnEncoding : Obligations.EveryDecodedRecordIsAnEncoding := by
  intro c r i h
  exact decode_ok h

/-- Settles O11: each word is written out in its record, and the record decodes. -/
theorem specWordsDecode : Obligations.SpecWordsDecode := by
  exact ⟨rfl, rfl, rfl, rfl, rfl⟩

end Sys2Proof

namespace Sys2Proof.Machine

/-! The FRAME13 rows, read byte by byte (R76, R87). -/

/-- R157: the mask 0xE0 leaves the bytes below 0x20. -/
theorem and_e0_eq_zero_iff (b : Byte) : b &&& 0xE0 = 0 ↔ b.toNat < 0x20 := by
  revert b
  decide

theorem and_ff (b : Byte) : b &&& 255#8 = b := BitVec.and_allOnes

/-- R93: a row is matched byte by byte, the thirteen bytes written out. -/
theorem masked_eq_iff_bytes (f : Frame) (m v : BitVec 104) :
    (frameView f &&& m == v) = true ↔
      f[12] &&& m.extractLsb' 0 8 = v.extractLsb' 0 8 ∧ f[11] &&& m.extractLsb' 8 8 = v.extractLsb' 8 8 ∧
      f[10] &&& m.extractLsb' 16 8 = v.extractLsb' 16 8 ∧ f[9] &&& m.extractLsb' 24 8 = v.extractLsb' 24 8 ∧
      f[8] &&& m.extractLsb' 32 8 = v.extractLsb' 32 8 ∧ f[7] &&& m.extractLsb' 40 8 = v.extractLsb' 40 8 ∧
      f[6] &&& m.extractLsb' 48 8 = v.extractLsb' 48 8 ∧ f[5] &&& m.extractLsb' 56 8 = v.extractLsb' 56 8 ∧
      f[4] &&& m.extractLsb' 64 8 = v.extractLsb' 64 8 ∧ f[3] &&& m.extractLsb' 72 8 = v.extractLsb' 72 8 ∧
      f[2] &&& m.extractLsb' 80 8 = v.extractLsb' 80 8 ∧ f[1] &&& m.extractLsb' 88 8 = v.extractLsb' 88 8 ∧
      f[0] &&& m.extractLsb' 96 8 = v.extractLsb' 96 8 := by
  rw [masked_eq_iff]
  simp only [Fin.forall_fin_succ, IsEmpty.forall_iff, and_true]
  rfl

/-- The rows that test the header alone: DEC.BADCHK and DEC.DISCARD. -/
theorem masked_header (f : Frame) :
    (frameView f &&& 0xFF000000000000000000000000 == 0xAA000000000000000000000000) = decide (f[0] = 0xAA) := by
  rw [Bool.eq_iff_iff, masked_eq_iff_bytes, decide_eq_true_iff]
  simp [and_ff]

/-- The rows that test the header and the function code, which is byte 3 of the row's match. -/
theorem masked_fn (f : Frame) {v : BitVec 104} {code : Byte}
    (hMatch : ∀ k : Fin 13, v.extractLsb' (8 * k.val) 8 = if k = 12 then 0xAA else if k = 9 then code else 0) :
    (frameView f &&& 0xFF0000FF000000000000000000 == v) = (decide (f[0] = 0xAA) && decide (f[3] = code)) := by
  rw [Bool.eq_iff_iff, masked_eq_iff, Bool.and_eq_true, decide_eq_true_iff, decide_eq_true_iff]
  simp only [hMatch]
  simp [Fin.forall_fin_succ, and_ff]
  exact and_comm

/-- The heuristic row: the header, CLS and P0 zero, P1 below 0x20. -/
theorem masked_heur (f : Frame) :
    (frameView f &&& 0xFF00FF000000FFE00000000000 == 0xAA000000000000000000000000) =
      (decide (f[0] = 0xAA) && isErrHeur f) := by
  rw [Bool.eq_iff_iff, masked_eq_iff_bytes, Bool.and_eq_true, decide_eq_true_iff, isErrHeur_iff,
    ← and_e0_eq_zero_iff]
  simp [and_ff]
  tauto

/-- R87: the opcode map in priority order. -/
theorem classify_eq (f : Frame) :
    classify f =
      if f[0] ≠ 0xAA then none
      else if sumOf f % 256 ≠ f[12].toNat then some .badchk
      else if f[3] = 0x20 then some .meas20
      else if f[3] = 0x21 then some .meas21
      else if f[3] = 0x22 then some .meas22
      else if f[3] = 0xEE then some .errEe
      else if f[2] = 0x00 ∧ f[6] = 0x00 ∧ f[7].toNat < 0x20 then some .errHeur
      else some .discard := by
  simp only [← isErrHeur_iff, classify, frameRows, FrameRow.fits, List.find?_cons, masked_header, masked_heur,
    masked_fn f (code := 0x20) (v := 0xAA000020000000000000000000) (by decide),
    masked_fn f (code := 0x21) (v := 0xAA000021000000000000000000) (by decide),
    masked_fn f (code := 0x22) (v := 0xAA000022000000000000000000) (by decide),
    masked_fn f (code := 0xEE) (v := 0xAA0000EE000000000000000000) (by decide)]
  by_cases hHeader : f[0] = 0xAA
  case neg => simp_all
  case pos =>
    rw [if_neg (not_not.mpr hHeader), decide_eq_true hHeader]
    by_cases hSum : sumOf f % 256 = f[12].toNat
    case neg => simp_all [chkOk_eq]
    case pos =>
      rw [if_neg (not_not.mpr hSum), (chkOk_iff f).mpr hSum]
      split_ifs <;> simp_all

/-- Settles O10: decoding a receive frame is `classify`, and `classify` is the opcode map. -/
theorem framesDecodeByPriority : Obligations.FramesDecodeByPriority := by
  intro c f
  rw [decode_selFrame, decodeFrameRecord, frameOf_toList]
  simp only [classify_eq]
  split_ifs <;> rfl

end Sys2Proof.Machine

/-! Proofs of the remaining validator and decoder statements (42_validator.md, 43_decoder.md): the checksum under a
change and a permutation of bytes, BCD32 on decimal digits, and the opcode map against DECODE_FRAME. -/

namespace Sys2Proof.Machine

/-! The checksum. -/

/-- R142: byte 0 is not summed. -/
theorem sumOf_set_header (f : Frame) (b : Byte) : sumOf (f.set 0 b) = sumOf f := by simp [sumOf]

/-- R140: byte 12 is not summed. -/
theorem sumOf_set_cs (f : Frame) (b : Byte) : sumOf (f.set 12 b) = sumOf f := by simp [sumOf]

/-- R140: each of the bytes 1 to 11 is summed once. -/
theorem sumOf_set_summed (f : Frame) {k : Nat} (b : Byte) (hFirst : 1 ≤ k) (hLast : k ≤ 11) :
    sumOf (f.set k b) + f[k].toNat = sumOf f + b.toNat := by
  interval_cases k <;> simp [sumOf] <;> omega

/-- R142: a change of byte 0 is not seen. -/
theorem chkOk_set_header (f : Frame) (b : Byte) : chkOk (f.set 0 b) = chkOk f := by
  simp [chkOk_eq, sumOf_set_header]

/-- R145: a change of one of the bytes 1 to 12 of a valid frame is seen: it moves the sum or the byte compared with it by
less than 256. -/
theorem chkOk_set_of_ne {f : Frame} {k : Nat} {b : Byte} (hLast : k < 13) (hNotHeader : k ≠ 0) (hNew : b ≠ f[k])
    (hValid : chkOk f = true) : chkOk (f.set k b) = false := by
  have hSum := (chkOk_iff f).mp hValid
  have hNe : b.toNat ≠ f[k].toNat := mt BitVec.eq_of_toNat_eq hNew
  have hb := b.isLt
  have hOld := f[k].isLt
  rw [← Bool.not_eq_true, chkOk_iff]
  by_cases hCs : k = 12
  case pos =>
    subst hCs
    rw [sumOf_set_cs, Vector.getElem_set_self]
    omega
  case neg =>
    have hMoved := sumOf_set_summed f b (k := k) (by omega) (by omega)
    rw [Vector.getElem_set_ne _ _ (by omega)]
    omega

/-- R141: the checksum is a sum, so the order of the bytes 1 to 11 does not matter. -/
theorem checksum_of_perm {f g : Frame} (hPerm : ((f.toList.drop 1).take 11).Perm ((g.toList.drop 1).take 11)) :
    checksum f = checksum g :=
  hPerm.foldl_eq' (fun x _ y _ z => by rw [BitVec.add_assoc, BitVec.add_comm x y, ← BitVec.add_assoc]) 0

theorem chkOk_of_exec_chk {f : Frame} {s : State} {ok : Bool}
    (h : exec (.chk f) s = .next { s with delivered := .chkResult ok }) : chkOk f = ok := by
  simpa [exec_chk] using h

/-! BCD32 on decimal digits. -/

/-- Both nibbles of the byte are decimal. -/
abbrev DecimalByte (b : Byte) : Prop := b.toNat / 16 ≤ 9 ∧ b.toNat % 16 ≤ 9

theorem digitPair_le {b : Byte} (h : DecimalByte b) : digitPair b ≤ 99 := by
  unfold digitPair highNibble lowNibble
  omega

theorem digitPair_inj {a b : Byte} (ha : DecimalByte a) (hb : DecimalByte b) (h : digitPair a = digitPair b) : a = b := by
  unfold digitPair highNibble lowNibble at h
  exact BitVec.eq_of_toNat_eq (by omega)

/-- R150: the four pairs of digits at their weights. -/
theorem bcd32_toNat_digits (p : Payload) :
    (bcd32 p).toNat =
      digitPair p[0] * 1000000 + digitPair p[1] * 10000 + digitPair p[2] * 100 + digitPair p[3] := by
  rw [bcd32_toNat]
  unfold bcdOf digitPair highNibble lowNibble
  omega

theorem decimalDigits_le {p : Payload} (h : ∀ k : Fin 4, DecimalByte p[k]) :
    digitPair p[0] ≤ 99 ∧ digitPair p[1] ≤ 99 ∧ digitPair p[2] ≤ 99 ∧ digitPair p[3] ≤ 99 :=
  ⟨digitPair_le (h 0), digitPair_le (h 1), digitPair_le (h 2), digitPair_le (h 3)⟩

/-! The opcode map against DECODE_FRAME. -/

/-- R87, R159: the class the table gives a frame has the outcome of DECODE_FRAME on it. -/
theorem exec_instr_of_classify {f : Frame} {k : FrameClass} (hClass : classify f = some k) (s : State) :
    exec (k.instr f) s = exec (.decodeFrame f) s := by
  rw [classify_eq] at hClass
  rw [exec_decodeFrame]
  split at hClass
  case isTrue => cases hClass
  split at hClass
  case isTrue hBad =>
    cases hClass
    rw [decodeFrame_of_bad_sum hBad]
    rfl
  case isFalse hNotBad =>
  have hSum := not_not.mp hNotBad
  split at hClass
  case isTrue h20 =>
    cases hClass
    rw [decodeFrame_of_measurement hSum (.inl h20)]
    rfl
  split at hClass
  case isTrue h21 =>
    cases hClass
    rw [decodeFrame_of_measurement hSum (.inr (.inl h21))]
    rfl
  split at hClass
  case isTrue h22 =>
    cases hClass
    rw [decodeFrame_of_measurement hSum (.inr (.inr h22))]
    rfl
  case isFalse h20 h21 h22 =>
  have hNotMeas : ¬ (f[3] = 0x20 ∨ f[3] = 0x21 ∨ f[3] = 0x22) := by tauto
  split at hClass
  case isTrue hEe =>
    cases hClass
    rw [decodeFrame_of_error hSum hNotMeas (.inl hEe)]
    rfl
  split at hClass
  case isTrue hHeur =>
    cases hClass
    rw [decodeFrame_of_error hSum hNotMeas (.inr hHeur)]
    rfl
  case isFalse hNotEe hNotHeur =>
    cases hClass
    rw [decodeFrame_of_other hSum hNotMeas (not_or.mpr ⟨hNotEe, hNotHeur⟩)]
    rfl

/-- R87: what a requested frame class or DECODE_FRAME does at line 5 of ASM is DECODE_FRAME of its frame. -/
theorem exec_of_frameAtCompletion {c : Config} {i : Instr} {f : Frame} (hWf : i.wellFormed c = true)
    (hFrame : frameAtCompletion i = some f) (s : State) : exec i s = exec (.decodeFrame f) s := by
  cases i <;> cases hFrame
  case decodeFrame => rfl
  all_goals exact exec_instr_of_classify (beq_iff_eq.mp hWf) s

/-! The obligations. -/

/-- Settles O38: byte 0 is not summed (`chkOk_set_header`), every other byte moves the verdict (`chkOk_set_of_ne`). -/
theorem chkDetectsOneChangedByte : Obligations.ChkDetectsOneChangedByte := by
  intro f s k b hNew hChk
  have hValid := chkOk_of_exec_chk hChk
  rw [exec_chk]
  by_cases hHeader : k.val = 0
  case pos =>
    obtain rfl : k = 0 := Fin.ext hHeader
    have hSame : chkOk (f.set ((0 : Fin 13) : Nat) b) = true := (chkOk_set_header f b).trans hValid
    rw [hSame, decide_eq_true hHeader]
  case neg => rw [chkOk_set_of_ne k.isLt hHeader hNew hValid, decide_eq_false hHeader]

/-- Settles O39: equal checksums (`checksum_of_perm`) against equal bytes 12. -/
theorem chkIsBlindToOrder : Obligations.ChkIsBlindToOrder := by
  intro f g s hPerm hCs
  rw [exec_chk, exec_chk, chkOk, chkOk, checksum_of_perm hPerm, cs, cs, hCs]

/-- Settles O41: four pairs of digits below 100 are read back from their weighted sum, and each pair from its byte. -/
theorem bcdIsOneToOneOnDecimalDigits : Obligations.BcdIsOneToOneOnDecimalDigits := by
  intro p q s v hp hq hNumber
  obtain rfl : bcd32 p = v := by simpa [exec_bcd32] using hNumber
  obtain ⟨hp0, hp1, hp2, hp3⟩ := decimalDigits_le hp
  obtain ⟨hq0, hq1, hq2, hq3⟩ := decimalDigits_le hq
  have hpSum := bcd32_toNat_digits p
  have hqSum := bcd32_toNat_digits q
  refine ⟨by omega, fun hSame => ?_⟩
  have hEq : bcd32 q = bcd32 p := by simpa [exec_bcd32] using hSame
  rw [hEq] at hqSum
  obtain ⟨h0, h1, h2, h3⟩ : digitPair p[0] = digitPair q[0] ∧ digitPair p[1] = digitPair q[1] ∧
      digitPair p[2] = digitPair q[2] ∧ digitPair p[3] = digitPair q[3] := by omega
  refine Vector.ext fun k hk => ?_
  interval_cases k
  · exact digitPair_inj (hp 0) (hq 0) h0
  · exact digitPair_inj (hp 1) (hq 1) h1
  · exact digitPair_inj (hp 2) (hq 2) h2
  · exact digitPair_inj (hp 3) (hq 3) h3

/-- Settles O46: a receive frame decodes to the class the table gives it. -/
theorem theDecodedClassDoesWhatDecodeFrameDoes : Obligations.TheDecodedClassDoesWhatDecodeFrameDoes := by
  intro c f i s hDecode
  rw [decode_selFrame] at hDecode
  obtain ⟨g, k, hClass, rfl, hBytes⟩ := decodeFrameRecord_ok hDecode
  obtain rfl : g = f := Vector.toList_inj.mp hBytes
  exact exec_instr_of_classify hClass s

/-- Settles O47: the tests of R159 and the operands read the checksum's verdict and the bytes 2, 3, 6, 7, 8 and 9. -/
theorem unusedFieldsReachOnlyTheChecksum : Obligations.UnusedFieldsReachOnlyTheChecksum := by
  intro f g s hChk h2 h3 h6 h7 h8 h9
  have hVerdict : chkOk f = chkOk g := by simpa [exec_chk] using hChk
  have hMeas : isMeas f = isMeas g := by rw [Bool.eq_iff_iff, isMeas_iff, isMeas_iff, h3]
  have hErr : isErr f = isErr g := by rw [Bool.eq_iff_iff, isErr_iff, isErr_iff, h2, h3, h6, h7]
  have hNumber : bcd32 (payload f) = bcd32 (payload g) := by rw [bcd32_payload, bcd32_payload, h6, h7, h8, h9]
  have hCode : errorCode f = errorCode g := h7
  rw [exec_decodeFrame, exec_decodeFrame]
  simp only [decodeFrame, takeMeasurement, takeErrorReport, hVerdict, hMeas, hErr, hNumber, hCode]

end Sys2Proof.Machine

/-! Proofs of the remaining assembler statements (41_assembler.md): ASM reads and writes the assembler's registers and
the latch only (R127), the lines of R126 for POS 1 to 12, and the latch after an ASM step (R160). -/

namespace Sys2Proof.Machine

/-! The part of the state that ASM works on. -/

/-- The state `e` with the assembler's registers and the latch of `s` (R127). -/
def State.withAssembler (e s : State) : State :=
  { e with pos := s.pos, lbt := s.lbt, fbuf := s.fbuf, lerrV := s.lerrV, lerrCode := s.lerrCode }

theorem dropStale_withAssembler {e s : State} (hCfg : e.cfg = s.cfg) (t : Nat) :
    dropStale t (e.withAssembler s) = e.withAssembler (dropStale t s) := by
  have hStale : isStale (e.withAssembler s).cfg (e.withAssembler s).pos (e.withAssembler s).lbt t =
      isStale s.cfg s.pos s.lbt t := congrArg (isStale · s.pos s.lbt t) hCfg
  unfold dropStale
  rw [hStale]
  split <;> rfl

theorem stampTime_withAssembler {e s : State} (hCfg : e.cfg = s.cfg) (t : Nat) :
    stampTime t (e.withAssembler s) = e.withAssembler (stampTime t s) := by
  have hSample : sampleTime (e.withAssembler s).cfg t = sampleTime s.cfg t := congrArg (sampleTime · t) hCfg
  unfold stampTime
  rw [hSample]
  rfl

theorem storeByte_withAssembler (e : State) {b : Byte} {s u : State} (h : storeByte b s = .next u) :
    storeByte b (e.withAssembler s) = .next (e.withAssembler u) := by
  unfold storeByte at h
  split at h
  case isTrue hPos =>
    cases h
    exact storeByte_of_lt b (e.withAssembler s) hPos
  case isFalse => cases h

theorem decodeFrame_withAssembler (f : Frame) (e s : State) :
    decodeFrame f (e.withAssembler s) = ((decodeFrame f s).1, e.withAssembler (decodeFrame f s).2) := by
  unfold decodeFrame
  split
  · split
    · rfl
    · split <;> rfl
  · rfl

/-- R159: DECODE_FRAME neither reads nor writes LBT, FBUF and POS. -/
theorem decodeFrame_with (f : Frame) (s : State) (lbt : Nat) (fbuf : Frame) (pos : BitVec 4) :
    decodeFrame f { s with lbt := lbt, fbuf := fbuf, pos := pos } =
      ((decodeFrame f s).1, { (decodeFrame f s).2 with lbt := lbt, fbuf := fbuf, pos := pos }) := by
  unfold decodeFrame
  split
  · split
    · rfl
    · split <;> rfl
  · rfl

theorem completeFrame_withAssembler (e s : State) :
    completeFrame (e.withAssembler s) = ((completeFrame s).1, e.withAssembler (completeFrame s).2) := by
  by_cases hFull : s.pos = 13
  · rw [completeFrame_of_full hFull, completeFrame_of_full (s := e.withAssembler s) hFull]
    change ((decodeFrame s.fbuf (e.withAssembler s)).1, { (decodeFrame s.fbuf (e.withAssembler s)).2 with pos := 0 }) = _
    rw [decodeFrame_withAssembler]
    rfl
  · rw [completeFrame_of_not_full hFull, completeFrame_of_not_full (s := e.withAssembler s) hFull]

/-- R127: in another state with the same assembler and latch ASM does the same to them, and nothing to the rest. -/
theorem assemble_withAssembler {e s : State} {b : Byte} {t : Nat} {r : Option Result × State} (hCfg : e.cfg = s.cfg)
    (h : assemble b t s = .next r) : assemble b t (e.withAssembler s) = .next (r.1, e.withAssembler r.2) := by
  have hCfg' : e.cfg = (dropStale t s).cfg := hCfg.trans (dropStale_cfg t s).symm
  unfold assemble at h ⊢
  rw [dropStale_withAssembler hCfg, stampTime_withAssembler hCfg']
  change (if isSearching (stampTime t (dropStale t s)).pos && !isHeader b then _ else _) = _
  split at h
  case isTrue hDiscard =>
    cases h
    exact if_pos hDiscard
  case isFalse hStore =>
    obtain ⟨v, hStored, hDone⟩ := andThen_eq_next.mp h
    cases hDone
    rw [if_neg hStore, storeByte_withAssembler e hStored, andThen_next, completeFrame_withAssembler]

/-- R127: `assemble_frame` in terms of `withAssembler`. -/
theorem assemble_snd {b : Byte} {t : Nat} {s : State} {r : Option Result × State} (h : assemble b t s = .next r) :
    r.2 = s.withAssembler r.2 := by
  have hFrame := assemble_frame h
  rw [hFrame]
  rfl

/-- R120: all an ASM step can do. -/
theorem exec_asm_eq_next {b : Byte} {t : Nat} {s u : State} (h : exec (.asm b t) s = .next u) :
    s.phase = .draining ∧ ∃ r, assemble b t s = .next r ∧ u = deliver (.frameResult r.1) r.2 := by
  change execAsm b t s = _ at h
  unfold execAsm at h
  split at h
  · cases h
  · rename_i hDraining
    obtain ⟨r, hAssemble, hDone⟩ := andThen_eq_next.mp h
    cases hDone
    exact ⟨hDraining, r, hAssemble, rfl⟩

/-! The latch after ASM (R160). -/

/-- The latch of `u` is that of `s`. -/
abbrev State.SameLatch (s u : State) : Prop := u.lerrV = s.lerrV ∧ u.lerrCode = s.lerrCode

/-- The latch agrees with a result: none after a Measurement, the code after an Error Report. -/
def State.LatchShows (u : State) : Result → Prop
  | .measurement _ => u.lerrV = false
  | .errorReport code => u.lerrV = true ∧ u.lerrCode = code

/-- The latch of `u`, after `s`, agrees with an optional result. -/
def State.LatchAfter (s u : State) : Option Result → Prop
  | none => s.SameLatch u
  | some x => u.LatchShows x

theorem assemble_latchAfter {b : Byte} {t : Nat} {s : State} {r : Option Result × State}
    (h : assemble b t s = .next r) : s.LatchAfter r.2 r.1 := by
  rcases assemble_latch h with ⟨hNone, hLatch⟩ | ⟨mm, hSome, hValid, -, -⟩ | ⟨code, hSome, hValid, hCode, -⟩
  · rw [hNone]
    exact hLatch
  · rw [hSome]
    exact hValid
  · rw [hSome]
    exact ⟨hValid, hCode⟩

/-- R125: a result comes with POS back at 0. -/
theorem assemble_pos_of_result {b : Byte} {t : Nat} {s : State} {r : Option Result × State} {x : Result}
    (h : assemble b t s = .next r) (hResult : r.1 = some x) : r.2.pos = 0 := by
  rcases assemble_latch h with ⟨hNone, -⟩ | ⟨-, -, -, -, hPos⟩ | ⟨-, -, -, -, hPos⟩
  · rw [hNone] at hResult
    cases hResult
  · exact hPos
  · exact hPos

/-! The obligations. -/

/-- Settles O31: `exec_asm_stores` at `POS = n + 1`, with the sample stamped as it is. -/
theorem asmStoresInSequence : Obligations.AsmStoresInSequence := by
  intro s b t hDraining hFirst hLast hTime hGap
  obtain ⟨n, hPos⟩ : ∃ n, s.pos.toNat = n + 1 := ⟨s.pos.toNat - 1, by omega⟩
  have hSet : s.fbuf.set (n + 1) b = s.fbuf.setIfInBounds (n + 1) b :=
    Vector.ext fun i hi => by rw [Vector.getElem_set, Vector.getElem_setIfInBounds]
  rw [exec_asm_stores hDraining hPos (by omega) hGap, State.returningNone, sampleTime_of_lt hTime, hPos, hSet]

/-- Settles O32: at POS 12 the byte is stored and the full frame decoded; DECODE_FRAME neither reads nor writes LBT, FBUF
and POS (`decodeFrame_with`). -/
theorem asmCompletesAtTheThirteenthByte : Obligations.AsmCompletesAtTheThirteenthByte := by
  intro s b t hDraining hPos hTime hGap
  refine ⟨_, exec_decodeFrame (s.fbuf.set 12 b) s, ?_⟩
  rw [exec_asm_of_draining hDraining, assemble_of_accumulating (n := 11) (by rw [hPos]; rfl) (by omega) hGap, andThen_next,
    completeFrame_of_full (by rw [hPos]; rfl), sampleTime_of_lt hTime]
  simp only [decodeFrame_with]
  rfl

/-- Settles O33: with a stale gap the byte is judged in Searching, where POS is 0. -/
theorem asmDropsAStaleFrame : Obligations.AsmDropsAStaleFrame := by
  intro s b t hDraining _ _ hTime hGap
  split
  case isTrue hByte =>
    rw [hByte, exec_asm_starts_candidate hDraining (.inr hGap), State.returningNone, sampleTime_of_lt hTime]
  case isFalse hByte =>
    rw [exec_asm_discards hDraining (.inr hGap) hByte, State.returningNone, sampleTime_of_lt hTime]

/-- Settles O34: the second state is itself with the assembler of the first (`assemble_withAssembler`). -/
theorem asmDependsOnTheAssemblerOnly : Obligations.AsmDependsOnTheAssemblerOnly := by
  intro s s' u b t _ hDraining' hCfg hPos hLbt hFbuf hValid hCode hNext
  obtain ⟨-, r, hAssemble, rfl⟩ := exec_asm_eq_next hNext
  have hSame : s' = s'.withAssembler s := by
    unfold State.withAssembler
    rw [hPos, hLbt, hFbuf, hValid, hCode]
  have hOther := assemble_withAssembler hCfg.symm hAssemble
  rw [← hSame] at hOther
  rw [exec_asm_of_draining hDraining', hOther]
  rfl

/-- Settles O35: with POS 0 nothing is dropped, so LBT is not read before it is stamped. -/
theorem lbtIsUnobservableInSearching : Obligations.LbtIsUnobservableInSearching := by
  intro s x b t hPos
  have hSame : assemble b t { s with lbt := x } = assemble b t s := by
    unfold assemble
    rw [dropStale_of_searchesAt (.inl hPos), dropStale_of_searchesAt (s := { s with lbt := x }) (.inl hPos)]
    rfl
  change execAsm b t { s with lbt := x } = execAsm b t s
  unfold execAsm
  rw [hSame]

/-- Settles O48: `assemble_latchAfter`, result by result. -/
theorem latchFollowsTheDecodedFrame : Obligations.LatchFollowsTheDecodedFrame := by
  intro s u b t hNext
  obtain ⟨-, r, hAssemble, rfl⟩ := exec_asm_eq_next hNext
  have hLatch := assemble_latchAfter hAssemble
  refine ⟨r.1, rfl, fun hNone => ?_, fun mm hSome => ?_, fun code hSome => ?_⟩
  · rw [hNone] at hLatch
    exact hLatch
  · rw [hSome] at hLatch
    exact hLatch
  · rw [hSome] at hLatch
    exact hLatch

end Sys2Proof.Machine

/-! What a poll can do, said once (44_poll.md R177 to R181): a byte step takes the byte at TAIL and either goes on or ends
the poll with a result; a whole POLL is byte steps that go on, and then one of the two ends. -/

namespace Sys2Proof.Machine

/-! One byte step. -/

/-- The state with the byte at TAIL taken (R105). -/
def State.drained (s : State) : State := { s with tail := nextIndex s.cfg s.tail }

/-- R177: the byte step at `s` drains `b`, and ASM of it answers `r`. -/
structure ByteTaken (s : State) (b : Byte) (t : Nat) (r : Option Result × State) : Prop where
  draining : s.phase = .draining
  unread : s.tail ≠ s.hsnap
  inRange : s.tail < s.cfg.capacity
  byte : Memory.read s.ring s.tail = some b
  assembled : assemble b t s.drained = .next r

theorem pollByte_of_byteTaken {s : State} {b : Byte} {t : Nat} {r : Option Result × State} (h : ByteTaken s b t r) :
    pollByte t s = .next (afterByte r) := by
  have hAssembled := h.assembled
  rw [pollByte, drainByte_of_readable h.draining h.unread h.inRange h.byte, andThen_next]
  change andThen (assemble b t s.drained) _ = _
  rw [hAssembled, andThen_next]

theorem byteTaken_of_pollByte {t : Nat} {s u : State} (h : pollByte t s = .next u) :
    ∃ b r, ByteTaken s b t r ∧ u = afterByte r := by
  obtain ⟨⟨b, d⟩, r, hDrain, hAssemble, rfl⟩ := pollByte_eq_next h
  obtain ⟨hDraining, hUnread, hRange, hByte, rfl⟩ := drainByte_eq_next hDrain
  exact ⟨b, r, ⟨hDraining, hUnread, hRange, hByte, hAssemble⟩, rfl⟩

/-- R127: the state after ASM is the drained one but for the assembler and the latch. -/
theorem ByteTaken.snd_eq {s : State} {b : Byte} {t : Nat} {r : Option Result × State} (h : ByteTaken s b t r) :
    r.2 = s.drained.withAssembler r.2 :=
  assemble_snd h.assembled

/-- R180: a byte step that returns none, after which the poll goes on. -/
def GoesOn (s u : State) : Prop := ∃ b t a, ByteTaken s b t (none, a) ∧ u = { a with delivered := .nothing }

/-- The two ends of a poll: the region is drained (R178), or a byte step returns a result (R179). -/
inductive PollEnds (s : State) : State → Prop
  | drained (hDraining : s.phase = .draining) (hEmpty : s.tail = s.hsnap) : PollEnds s s.endedEmpty
  | result {b : Byte} {t : Nat} {x : Result} {a : State} (hByte : ByteTaken s b t (some x, a)) :
      PollEnds s (finishPoll x a)

theorem pollEnds_of_pollEmpty {s u : State} (h : pollEmpty s = .next u) : PollEnds s u := by
  obtain ⟨hDraining, hEmpty, rfl⟩ := pollEmpty_eq_next h
  exact .drained hDraining hEmpty

/-- R177: a byte step goes on or ends the poll. -/
theorem goesOn_or_pollEnds_of_pollByte {t : Nat} {s u : State} (h : pollByte t s = .next u) :
    GoesOn s u ∨ PollEnds s u := by
  obtain ⟨b, ⟨x, a⟩, hByte, rfl⟩ := byteTaken_of_pollByte h
  cases x with
  | none => exact .inl ⟨b, t, a, hByte, rfl⟩
  | some x => exact .inr (.result hByte)

theorem PollEnds.phase {s u : State} (h : PollEnds s u) : u.phase = .idle := by
  cases h with
  | drained => rfl
  | result => exact finishPoll_phase _ _

theorem PollEnds.delivered {s u : State} (h : PollEnds s u) : u.delivered = .pollDone := by
  cases h with
  | drained => rfl
  | result => exact finishPoll_delivered _ _

theorem GoesOn.draining {s u : State} (h : GoesOn s u) : u.phase = .draining := by
  obtain ⟨b, t, a, hByte, rfl⟩ := h
  have hFrame := hByte.snd_eq
  exact (congrArg State.phase hFrame).trans hByte.draining

/-! A whole poll. -/

/-- R180: byte steps that all go on. -/
abbrev GoesOnTo : State → State → Prop := Relation.ReflTransGen GoesOn

/-- R181: the loop is byte steps that go on, then an end. -/
theorem pollLoop_eq_next {n t : Nat} {ts : List Nat} {s u : State} (h : pollLoop n t ts s = .next u) :
    ∃ v, GoesOnTo s v ∧ PollEnds v u := by
  induction n generalizing s t ts with
  | zero => exact ⟨s, .refl, pollEnds_of_pollEmpty h⟩
  | succ n ih =>
    unfold pollLoop at h
    split at h
    case isTrue => exact ⟨s, .refl, pollEnds_of_pollEmpty h⟩
    case isFalse =>
      split at h
      · rename_i w hByte
        split at h
        · rename_i hIdle
          cases h
          rcases goesOn_or_pollEnds_of_pollByte hByte with hOn | hEnd
          · cases hIdle.symm.trans hOn.draining
          · exact ⟨s, .refl, hEnd⟩
        · rename_i hDraining
          rcases goesOn_or_pollEnds_of_pollByte hByte with hOn | hEnd
          · obtain ⟨v, hRest, hEnd⟩ := ih h
            exact ⟨v, .head hOn hRest, hEnd⟩
          · cases hDraining.symm.trans hEnd.phase
      · cases h
      · cases h

/-- R175, R181: all a POLL can do. -/
theorem exec_poll_eq_next {t : Nat} {ts : List Nat} {s u : State} (h : exec (.poll t ts) s = .next u) :
    s.phase = .idle ∧ ∃ v, GoesOnTo { s with hsnap := s.head, phase := .draining } v ∧ PollEnds v u := by
  obtain ⟨w, hSnap, hLoop⟩ := andThen_eq_next.mp ((exec_poll t ts s).symm.trans h)
  obtain ⟨hIdle, rfl⟩ := snapHead_eq_next hSnap
  exact ⟨hIdle, pollLoop_eq_next hLoop⟩

/-! What a poll leaves as it was. -/

/-- What no byte step and no end of a poll writes: the configuration, the requests, the Receiver's registers (20_memory.md
R60), HSNAP and the byte step requested in parts. -/
structure KeptByPoll (s u : State) : Prop where
  cfg : u.cfg = s.cfg
  pending : u.pending = s.pending
  byteStep : u.byteStep = s.byteStep
  ring : u.ring = s.ring
  head : u.head = s.head
  hsnap : u.hsnap = s.hsnap

theorem KeptByPoll.refl (s : State) : KeptByPoll s s := ⟨rfl, rfl, rfl, rfl, rfl, rfl⟩

theorem KeptByPoll.trans {s v u : State} (h : KeptByPoll s v) (h' : KeptByPoll v u) : KeptByPoll s u :=
  ⟨h'.cfg.trans h.cfg, h'.pending.trans h.pending, h'.byteStep.trans h.byteStep, h'.ring.trans h.ring,
    h'.head.trans h.head, h'.hsnap.trans h.hsnap⟩

theorem ByteTaken.kept {s : State} {b : Byte} {t : Nat} {r : Option Result × State} (h : ByteTaken s b t r) :
    KeptByPoll s r.2 := by
  rw [h.snd_eq]
  exact ⟨rfl, rfl, rfl, rfl, rfl, rfl⟩

theorem keptByPoll_finishPoll (x : Result) (s : State) : KeptByPoll s (finishPoll x s) := by
  cases x <;> exact ⟨rfl, rfl, rfl, rfl, rfl, rfl⟩

theorem GoesOn.kept {s u : State} (h : GoesOn s u) : KeptByPoll s u := by
  obtain ⟨b, t, a, hByte, rfl⟩ := h
  exact hByte.kept.trans ⟨rfl, rfl, rfl, rfl, rfl, rfl⟩

theorem PollEnds.kept {s u : State} (h : PollEnds s u) : KeptByPoll s u := by
  cases h with
  | drained => exact ⟨rfl, rfl, rfl, rfl, rfl, rfl⟩
  | result hByte => exact hByte.kept.trans (keptByPoll_finishPoll _ _)

/-- R160: a byte step that returns none leaves the latch alone. -/
theorem GoesOn.sameLatch {s u : State} (h : GoesOn s u) : s.SameLatch u := by
  obtain ⟨b, t, a, hByte, rfl⟩ := h
  exact assemble_latchAfter hByte.assembled

theorem goesOnTo_kept {s v : State} (h : GoesOnTo s v) : KeptByPoll s v ∧ s.SameLatch v := by
  induction h with
  | refl => exact ⟨.refl s, rfl, rfl⟩
  | tail _ hStep ih =>
    obtain ⟨hKept, hValid, hCode⟩ := ih
    obtain ⟨hValid', hCode'⟩ := hStep.sameLatch
    exact ⟨hKept.trans hStep.kept, hValid'.trans hValid, hCode'.trans hCode⟩

/-- What a POLL writes is what its SNAP, its byte steps and its end write. -/
theorem keptByPoll_of_exec_poll {t : Nat} {ts : List Nat} {s u : State} (h : exec (.poll t ts) s = .next u) :
    KeptByPoll { s with hsnap := s.head } u := by
  obtain ⟨-, v, hOn, hEnd⟩ := exec_poll_eq_next h
  have hSnap : KeptByPoll { s with hsnap := s.head } { s with hsnap := s.head, phase := .draining } :=
    ⟨rfl, rfl, rfl, rfl, rfl, rfl⟩
  exact (hSnap.trans (goesOnTo_kept hOn).1).trans hEnd.kept

/-! The latch and the POLL port at the end of a poll (R186). -/

/-- R97: the result of the POLL port as the optional result of the ASM step that ended the poll. -/
def portOf : Option Result → PollResult
  | none => .noData
  | some x => resultValue x

/-- R186: a poll ends with a result on the POLL port with which the latch agrees, and a result comes with POS at 0. -/
theorem PollEnds.port {s u : State} (h : PollEnds s u) :
    ∃ x, pollResult u = some (portOf x) ∧ s.LatchAfter u x ∧ (x = none → u.tail = s.hsnap) ∧ (x ≠ none → u.pos = 0) := by
  cases h with
  | drained hDraining hEmpty => exact ⟨none, rfl, ⟨rfl, rfl⟩, fun _ => hEmpty, fun h => absurd rfl h⟩
  | @result b t x a hByte =>
    have hLatch := assemble_latchAfter hByte.assembled
    have hPos := assemble_pos_of_result hByte.assembled rfl
    refine ⟨some x, pollResult_finishPoll x a, ?_, nofun, fun _ => ?_⟩
    · cases x <;> exact hLatch
    · cases x <;> exact hPos

end Sys2Proof.Machine

/-! The whole machine: which registers each instruction writes (10_state.md R40), and the latch after a POLL. -/

namespace Sys2Proof.Machine

/-! What the instructions of the ring and of the poll can do. -/

theorem exec_rxwrite_eq_next {b : Byte} {s u : State} (h : exec (.rxwrite b) s = .next u) :
    s.head < s.cfg.capacity ∧
      u = { s with ring := Memory.write s.ring s.head b, head := nextIndex s.cfg s.head, delivered := .nothing } := by
  obtain ⟨v, hStored, hDone⟩ := andThen_eq_next.mp ((exec_rxwrite b s).symm.trans h)
  obtain ⟨hHead, rfl⟩ := storeReceived_eq_next hStored
  cases hDone
  exact ⟨hHead, rfl⟩

theorem exec_snap_eq_next {s u : State} (h : exec .snap s = .next u) :
    s.phase = .idle ∧ u = { s with hsnap := s.head, phase := .draining, delivered := .nothing } := by
  obtain ⟨v, hSnap, hDone⟩ := andThen_eq_next.mp ((exec_snap s).symm.trans h)
  obtain ⟨hIdle, rfl⟩ := snapHead_eq_next hSnap
  cases hDone
  exact ⟨hIdle, rfl⟩

theorem exec_drain_eq_next {s u : State} (h : exec .drain s = .next u) :
    s.phase = .draining ∧ ∃ b, s.tail ≠ s.hsnap ∧ s.tail < s.cfg.capacity ∧ Memory.read s.ring s.tail = some b ∧
      u = { s.drained with delivered := .byte b } := by
  obtain ⟨⟨b, d⟩, hDrain, hDone⟩ := andThen_eq_next.mp ((exec_drain s).symm.trans h)
  obtain ⟨hDraining, hUnread, hRange, hByte, rfl⟩ := drainByte_eq_next hDrain
  cases hDone
  exact ⟨hDraining, b, hUnread, hRange, hByte, rfl⟩

theorem exec_endPoll_eq_next {x : Result} {s u : State} (h : exec (.endPoll x) s = .next u) :
    s.phase = .draining ∧ u = finishPoll x s := by
  change execEndPoll x s = _ at h
  unfold execEndPoll at h
  split at h
  · cases h
  · rename_i hDraining
    cases h
    exact ⟨hDraining, rfl⟩

theorem keptByPoll_of_exec_pollStep {t : Nat} {s u : State} (h : exec (.pollStep t) s = .next u) : KeptByPoll s u :=
  (goesOn_or_pollEnds_of_pollByte h).elim GoesOn.kept PollEnds.kept

/-- R127: what ASM answers is the state before with the assembler, the latch and the delivery of the state after. -/
theorem exec_asm_frame {b : Byte} {t : Nat} {s u : State} (h : exec (.asm b t) s = .next u) :
    u = { s.withAssembler u with delivered := u.delivered } := by
  obtain ⟨-, r, hAssemble, rfl⟩ := exec_asm_eq_next h
  have hFrame := assemble_snd hAssemble
  rw [hFrame]
  rfl

/-- Settles O7: instruction by instruction, each by the lemma that says all it can do. -/
theorem everyRegisterHasItsOnlyWriters : Obligations.EveryRegisterHasItsOnlyWriters := by
  intro i s u h
  cases i
  case decBadchk | decDiscard | getlasterror | chk | bcd32 | cmdLaserOn | cmdLaserOff | cmdQuickRead =>
    cases h
    exact ⟨rfl, rfl, rfl, ⟨rfl, rfl⟩, rfl, rfl, ⟨rfl, rfl, rfl⟩, rfl, ⟨rfl, rfl, rfl⟩, ⟨rfl, rfl⟩⟩
  case decMeas20 | decMeas21 | decMeas22 | decErrEe | decErrHeur =>
    cases h
    exact ⟨rfl, rfl, rfl, ⟨rfl, rfl⟩, rfl, rfl, ⟨rfl, rfl, rfl⟩, rfl, ⟨rfl, rfl, rfl⟩, trivial⟩
  case decodeFrame f =>
    cases h
    rw [decodeFrame_frame]
    exact ⟨rfl, rfl, rfl, ⟨rfl, rfl⟩, rfl, rfl, ⟨rfl, rfl, rfl⟩, rfl, ⟨rfl, rfl, rfl⟩, trivial⟩
  case rxwrite b =>
    obtain ⟨-, rfl⟩ := exec_rxwrite_eq_next h
    exact ⟨rfl, rfl, rfl, trivial, rfl, rfl, ⟨rfl, rfl, rfl⟩, rfl, ⟨rfl, rfl, rfl⟩, ⟨rfl, rfl⟩⟩
  case snap | pollStart =>
    obtain ⟨-, rfl⟩ := exec_snap_eq_next h
    exact ⟨rfl, rfl, rfl, ⟨rfl, rfl⟩, rfl, trivial, ⟨rfl, rfl, rfl⟩, trivial, ⟨rfl, rfl, rfl⟩, ⟨rfl, rfl⟩⟩
  case drain =>
    obtain ⟨-, b, -, -, -, rfl⟩ := exec_drain_eq_next h
    exact ⟨rfl, rfl, rfl, ⟨rfl, rfl⟩, trivial, rfl, ⟨rfl, rfl, rfl⟩, rfl, ⟨rfl, rfl, rfl⟩, ⟨rfl, rfl⟩⟩
  case asm b t =>
    rw [exec_asm_frame h]
    exact ⟨rfl, rfl, rfl, ⟨rfl, rfl⟩, rfl, rfl, trivial, rfl, ⟨rfl, rfl, rfl⟩, trivial⟩
  case pollStep t =>
    obtain ⟨hCfg, hPending, hByteStep, hRing, hHead, hHsnap⟩ := keptByPoll_of_exec_pollStep h
    exact ⟨hCfg, hPending, hByteStep, ⟨hRing, hHead⟩, trivial, hHsnap, trivial, trivial, trivial, trivial⟩
  case poll t ts =>
    obtain ⟨hCfg, hPending, hByteStep, hRing, hHead, -⟩ := keptByPoll_of_exec_poll h
    exact ⟨hCfg, hPending, hByteStep, ⟨hRing, hHead⟩, trivial, trivial, trivial, trivial, trivial, trivial⟩
  case pollEnd =>
    obtain ⟨-, -, rfl⟩ := pollEmpty_eq_next h
    exact ⟨rfl, rfl, rfl, ⟨rfl, rfl⟩, rfl, rfl, ⟨rfl, rfl, rfl⟩, trivial, trivial, ⟨rfl, rfl⟩⟩
  case endPoll x =>
    obtain ⟨-, rfl⟩ := exec_endPoll_eq_next h
    rw [finishPoll_frame]
    exact ⟨rfl, rfl, rfl, ⟨rfl, rfl⟩, rfl, rfl, ⟨rfl, rfl, rfl⟩, trivial, trivial, ⟨rfl, rfl⟩⟩
  case reset =>
    cases h
    exact ⟨rfl, rfl, trivial, trivial, trivial, trivial, trivial, trivial, trivial, trivial⟩

/-! The latch against the POLL port (R186). -/

theorem State.LatchAfter.of_sameLatch {s v u : State} {x : Option Result} (hSame : s.SameLatch v)
    (h : v.LatchAfter u x) : s.LatchAfter u x := by
  cases x with
  | none => exact ⟨h.1.trans hSame.1, h.2.trans hSame.2⟩
  | some x => exact h

/-- R186: the port shows `x`, and the latch agrees with it. -/
def EndsWith (s u : State) (x : Option Result) : Prop := pollResult u = some (portOf x) ∧ s.LatchAfter u x

theorem EndsWith.latch_agrees {s u : State} {x : Option Result} (h : EndsWith s u x) :
    (pollResult u = some .noData → u.lerrV = s.lerrV ∧ u.lerrCode = s.lerrCode) ∧
    (∀ mm, pollResult u = some (.measurement mm) → u.lerrV = false) ∧
    (∀ code, pollResult u = some (.errorReport code) → u.lerrV = true ∧ u.lerrCode = code) := by
  obtain ⟨hPort, hLatch⟩ := h
  rw [hPort]
  rcases x with _ | mm | code
  · exact ⟨fun _ => hLatch, nofun, nofun⟩
  · exact ⟨nofun, fun _ _ => hLatch, nofun⟩
  · refine ⟨nofun, nofun, fun code' hCode => ?_⟩
    cases hCode
    exact hLatch

/-- R186: every POLL ends with a port and a latch that agree. -/
theorem endsWith_of_exec_poll {t : Nat} {ts : List Nat} {s u : State} (h : exec (.poll t ts) s = .next u) :
    ∃ x, EndsWith s u x := by
  obtain ⟨-, v, hOn, hEnd⟩ := exec_poll_eq_next h
  obtain ⟨x, hPort, hLatch, -, -⟩ := hEnd.port
  have hSame : s.SameLatch v := (goesOnTo_kept hOn).2
  exact ⟨x, hPort, hLatch.of_sameLatch hSame⟩

/-- Settles O57: the byte steps that go on leave the latch alone, and the end of the poll sets it with the port. -/
theorem latchAgreesWithThePollResult : Obligations.LatchAgreesWithThePollResult := by
  intro s u t ts _ h
  obtain ⟨x, hEnds⟩ := endsWith_of_exec_poll h
  exact hEnds.latch_agrees

end Sys2Proof.Machine

/-! A step of the machine: what a request that runs can do, said once (`Runs`), and the statements about one step. -/

namespace Sys2Proof.Machine

/-! What a request in its place can do. -/

/-- The operations that write nothing but what they deliver, and are no part of a poll. -/
def answersOnly : Instr → Bool
  | .getlasterror | .chk _ | .bcd32 _ | .cmdLaserOn | .cmdLaserOff | .cmdQuickRead => true
  | _ => false

theorem answersOnly_outside_poll {i : Instr} (h : answersOnly i = true) :
    runsAsm i = false ∧ movesByteStep i = false := by
  cases i
  case getlasterror | chk | bcd32 | cmdLaserOn | cmdLaserOff | cmdQuickRead => exact ⟨rfl, rfl⟩
  all_goals cases h

/-- The request `i`, in its place in `s`, runs and leaves `u`, before the byte step moves on: one constructor per kind of
effect. -/
inductive Runs (s : State) : Instr → State → Prop
  | answered {i : Instr} {d : Delivered} (hAnswers : answersOnly i = true) (hDelivered : d ≠ .pollDone) :
      Runs s i (deliver d s)
  | stored {b : Byte} (hHead : s.head < s.cfg.capacity) :
      Runs s (.rxwrite b)
        { s with ring := Memory.write s.ring s.head b, head := nextIndex s.cfg s.head, delivered := .nothing }
  | snapped {i : Instr} (hSnap : i = .snap ∨ i = .pollStart) (hIdle : s.phase = .idle) :
      Runs s i { s with hsnap := s.head, phase := .draining, delivered := .nothing }
  | drained {b : Byte} (hOutside : s.byteStep = .outside) (hDraining : s.phase = .draining)
      (hUnread : s.tail ≠ s.hsnap) (hRange : s.tail < s.cfg.capacity) :
      Runs s .drain { s.drained with delivered := .byte b }
  | assembled {i : Instr} {b : Byte} {t : Nat} {r : Option Result × State} (hAsm : runsAsm i = true)
      (hMoves : movesByteStep i = true) (hDrained : s.byteStep = .drained b) (hDraining : s.phase = .draining)
      (hAssembled : assemble b t s = .next r) : Runs s i (deliver (.frameResult r.1) r.2)
  | polledByte {b : Byte} {t : Nat} {r : Option Result × State} (hOutside : s.byteStep = .outside)
      (hByte : ByteTaken s b t r) : Runs s (.pollStep t) (afterByte r)
  | pollEnded (hOutside : s.byteStep = .outside) (hDraining : s.phase = .draining) (hEmpty : s.tail = s.hsnap) :
      Runs s .pollEnd s.endedEmpty
  | resultEnded {x : Result} (hReturned : s.byteStep = .returned x) (hDraining : s.phase = .draining) :
      Runs s (.endPoll x) (finishPoll x s)
  | polled {t : Nat} {ts : List Nat} {v u : State} (hIdle : s.phase = .idle)
      (hOn : GoesOnTo { s with hsnap := s.head, phase := .draining } v) (hEnd : PollEnds v u) : Runs s (.poll t ts) u
  | reset : Runs s .reset (deliver .nothing (resetBlock s))

theorem perform_of_frameAtCompletion {i : Instr} {f : Frame} (hFrame : frameAtCompletion i = some f) (s : State) :
    perform i s = completeRequested f s := by
  simp only [perform, hFrame]

theorem perform_of_no_frame {i : Instr} (hOther : frameAtCompletion i = none) (s : State) :
    perform i s = exec i s := by
  simp only [perform, hOther]

theorem runs_of_completeRequested {i : Instr} {f : Frame} {s u : State} (hAsm : runsAsm i = true)
    (hMoves : movesByteStep i = true) (h : completeRequested f s = .next u) : Runs s i u := by
  obtain ⟨⟨-, -, -, hDrained⟩, hStep⟩ := completeRequested_eq_next h
  obtain ⟨hDraining, r, hAssembled, rfl⟩ := exec_asm_eq_next hStep
  exact .assembled hAsm hMoves hDrained hDraining hAssembled

/-- A request in its place that answers a next state has one of the effects of `Runs`. -/
theorem runs_of_perform {i : Instr} {s u : State} (hPlace : inPlace i s = true) (h : perform i s = .next u) :
    Runs s i u := by
  cases i
  case decBadchk | decMeas20 | decMeas21 | decMeas22 | decErrEe | decErrHeur | decDiscard | decodeFrame =>
    exact runs_of_completeRequested rfl rfl h
  case getlasterror | chk | bcd32 | cmdLaserOn | cmdLaserOff | cmdQuickRead =>
    cases h
    exact .answered rfl nofun
  case rxwrite b =>
    obtain ⟨hHead, rfl⟩ := exec_rxwrite_eq_next h
    exact .stored hHead
  case snap =>
    obtain ⟨hIdle, rfl⟩ := exec_snap_eq_next h
    exact .snapped (.inl rfl) hIdle
  case pollStart =>
    obtain ⟨hIdle, rfl⟩ := exec_snap_eq_next h
    exact .snapped (.inr rfl) hIdle
  case drain =>
    obtain ⟨hDraining, b, hUnread, hRange, -, rfl⟩ := exec_drain_eq_next h
    exact .drained (beq_iff_eq.mp hPlace) hDraining hUnread hRange
  case asm b t =>
    obtain ⟨hDraining, r, hAssembled, rfl⟩ := exec_asm_eq_next h
    exact .assembled rfl rfl (beq_iff_eq.mp hPlace) hDraining hAssembled
  case pollStep t =>
    obtain ⟨b, r, hByte, rfl⟩ := byteTaken_of_pollByte h
    exact .polledByte (beq_iff_eq.mp hPlace) hByte
  case poll t ts =>
    obtain ⟨hIdle, v, hOn, hEnd⟩ := exec_poll_eq_next h
    exact .polled hIdle hOn hEnd
  case pollEnd =>
    obtain ⟨hDraining, hEmpty, rfl⟩ := pollEmpty_eq_next h
    exact .pollEnded (beq_iff_eq.mp hPlace) hDraining hEmpty
  case endPoll x =>
    obtain ⟨hDraining, rfl⟩ := exec_endPoll_eq_next h
    exact .resultEnded (beq_iff_eq.mp hPlace) hDraining
  case reset =>
    cases h
    exact .reset

/-! The effects of the parts of a byte step, of POLL.STEP and of POLL.END. -/

theorem Runs.of_endPoll {s u : State} {x : Result} (h : Runs s (.endPoll x) u) :
    s.byteStep = .returned x ∧ u = finishPoll x s := by
  cases h with
  | resultEnded hReturned => exact ⟨hReturned, rfl⟩
  | answered hAnswers => cases hAnswers
  | assembled hAsm => cases hAsm
  | snapped hSnap => rcases hSnap with h | h <;> cases h

theorem Runs.of_drain {s u : State} (h : Runs s .drain u) :
    ∃ b, s.byteStep = .outside ∧ u = { s.drained with delivered := .byte b } := by
  cases h with
  | drained hOutside => exact ⟨_, hOutside, rfl⟩
  | answered hAnswers => cases hAnswers
  | assembled hAsm => cases hAsm
  | snapped hSnap => rcases hSnap with h | h <;> cases h

theorem keptByPoll_afterByte {s : State} {b : Byte} {t : Nat} {r : Option Result × State} (h : ByteTaken s b t r) :
    KeptByPoll s (afterByte r) :=
  keptByPoll_of_exec_pollStep (pollByte_of_byteTaken h)

theorem Runs.of_pollStep {s u : State} {t : Nat} (h : Runs s (.pollStep t) u) :
    s.byteStep = .outside ∧ KeptByPoll s u := by
  cases h with
  | polledByte hOutside hByte => exact ⟨hOutside, keptByPoll_afterByte hByte⟩
  | answered hAnswers => cases hAnswers
  | assembled _ hMoves => cases hMoves
  | snapped hSnap => rcases hSnap with h | h <;> cases h

theorem Runs.of_pollEnd {s u : State} (h : Runs s .pollEnd u) : s.byteStep = .outside ∧ u = s.endedEmpty := by
  cases h with
  | pollEnded hOutside => exact ⟨hOutside, rfl⟩
  | answered hAnswers => cases hAnswers
  | assembled hAsm => cases hAsm
  | snapped hSnap => rcases hSnap with h | h <;> cases h

/-! What a step can do. -/

/-- The step from `s` to `u` took the request `i` and left `rest` pending. -/
structure Steps (s : State) (i : Instr) (rest : List Instant) (v u : State) : Prop where
  request : nextRequest s = some i
  place : inPlace i s = true
  runs : Runs { s with pending := rest } i v
  moved : u = moveByteStep i v

theorem nextRequest_of_takeRequest {s : State} {r : Record} {rest : List Instant} {i : Instr}
    (hTake : takeRequest s.cfg s.pending = some (r, rest)) (hDecode : decode s.cfg r = .ok i) :
    nextRequest s = some i := by
  simp only [nextRequest, hTake, hDecode]
  rfl

/-- With nothing requested nothing happens (entry 16). -/
theorem step_of_no_request {s : State} (h : takeRequest s.cfg s.pending = none) : step s = .next s := by
  simp only [step, h]

theorem step_of_undecodable {s : State} {r : Record} {rest : List Instant} {e : DecodeError}
    (hTake : takeRequest s.cfg s.pending = some (r, rest)) (hDecode : decode s.cfg r = .error e) :
    step s = .refused (.undecodable e) := by
  simp only [step, hTake, hDecode]

theorem nextRequest_eq_none {s : State} (h : takeRequest s.cfg s.pending = none) : nextRequest s = none := by
  simp only [nextRequest, h]

/-- A step that answers a next state did nothing for want of a request, or ran one. -/
theorem step_eq_next {s u : State} (h : step s = .next u) :
    (nextRequest s = none ∧ u = s) ∨ ∃ i rest v, Steps s i rest v u := by
  cases hTake : takeRequest s.cfg s.pending with
  | none =>
    rw [step_of_no_request hTake] at h
    cases h
    exact .inl ⟨nextRequest_eq_none hTake, rfl⟩
  | some taken =>
    obtain ⟨r, rest⟩ := taken
    cases hDecode : decode s.cfg r with
    | error e =>
      rw [step_of_undecodable hTake hDecode] at h
      cases h
    | ok i =>
      rw [step_of_request hTake hDecode] at h
      obtain ⟨hPlace, v, hPerform, hMoved⟩ := runRequest_eq_next h
      exact .inr ⟨i, rest, v, nextRequest_of_takeRequest hTake hDecode, inPlace_pending i s rest ▸ hPlace,
        runs_of_perform hPlace hPerform, hMoved⟩

/-- The step ran the request that was next. -/
theorem steps_of_nextRequest {s u : State} {i : Instr} (h : step s = .next u) (hNext : nextRequest s = some i) :
    ∃ rest v, Steps s i rest v u := by
  rcases step_eq_next h with ⟨hNone, -⟩ | ⟨j, rest, v, hSteps⟩
  · cases hNone.symm.trans hNext
  · cases hSteps.request.symm.trans hNext
    exact ⟨rest, v, hSteps⟩

/-! The request taken first (60_exceptions.md R207). -/

theorem isResetRecord_iff (c : Config) (r : Record) : isResetRecord c r = true ↔ decode c r = .ok .reset := by
  unfold isResetRecord
  split
  · rename_i h
    exact iff_of_true rfl h
  · rename_i h
    exact iff_of_false Bool.false_ne_true h

/-- One record alone requests a RESET. -/
theorem record_of_reset {c : Config} {r : Record} (h : decode c r = .ok .reset) : r = [selRst, 1] :=
  (decode_ok h).2.symm

theorem takeFromInstant_of_reset {c : Config} {q : Instant} {r : Record} (hMem : r ∈ q)
    (hReset : decode c r = .ok .reset) : takeFromInstant c q = some (r, q.erase r) := by
  have hFound : (q.find? (isResetRecord c)).isSome = true :=
    List.find?_isSome.mpr ⟨r, hMem, (isResetRecord_iff c r).mpr hReset⟩
  obtain ⟨r', hFind⟩ := Option.isSome_iff_exists.mp hFound
  have hReset' := (isResetRecord_iff c r').mp (List.find?_some hFind)
  obtain rfl : r' = r := (record_of_reset hReset').trans (record_of_reset hReset).symm
  simp only [takeFromInstant, hFind]

theorem takeFromInstant_of_no_reset {c : Config} {r : Record} {rest : List Record}
    (hOther : ∀ x ∈ r :: rest, decode c x ≠ .ok .reset) : takeFromInstant c (r :: rest) = some (r, rest) := by
  have hNone : (r :: rest).find? (isResetRecord c) = none :=
    List.find?_eq_none.mpr fun x hx => mt (isResetRecord_iff c x).mp (hOther x hx)
  simp only [takeFromInstant, hNone]

theorem takeRequest_of_takeFromInstant {c : Config} {q left : Instant} {r : Record} (later : List Instant)
    (h : takeFromInstant c q = some (r, left)) :
    takeRequest c (q :: later) = some (r, if left = [] then later else left :: later) := by
  unfold takeRequest
  rw [h]
  cases left <;> rfl

/-! The obligations. -/

/-- Settles O18: the record found first is the RESET, since one record alone requests it; RESET is always in its place and
moves no byte step on. -/
theorem resetIsTakenBeforeAnyOtherRequest : Obligations.ResetIsTakenBeforeAnyOtherRequest := by
  intro s r q rest later hPending
  refine ⟨fun hMem hReset => ?reset, fun hFirst hOther => ?first⟩
  case reset =>
    have hTake := takeRequest_of_takeFromInstant later (takeFromInstant_of_reset hMem hReset)
    rw [← hPending] at hTake
    exact step_of_request hTake hReset
  case first =>
    subst hFirst
    rw [hPending]
    exact takeRequest_of_takeFromInstant later (takeFromInstant_of_no_reset hOther)

/-- Settles O12: the cases of `step` and of `runRequest`, each by the test that selects it. -/
theorem stepRunsTheDecodedInstruction : Obligations.StepRunsTheDecodedInstruction := by
  intro s
  refine ⟨fun r rest i hTake hDecode hOther => ?other, fun r rest i f hTake hDecode hFrame => ?frame,
    fun r rest e hTake hDecode => step_of_undecodable hTake hDecode, step_of_no_request⟩
  case other =>
    rw [step_of_request hTake hDecode, runRequest, perform_of_no_frame hOther]
    refine ⟨fun hPlace => if_pos ((inPlace_pending i s rest).trans hPlace), fun hPlace => if_neg ?_⟩
    rw [inPlace_pending, hPlace]
    exact Bool.false_ne_true
  case frame =>
    obtain ⟨hPlace, -⟩ := frameAtCompletion_eq_some hFrame
    rw [step_of_request hTake hDecode, runRequest, if_pos (hPlace _), perform_of_frameAtCompletion hFrame,
      completeRequested]
    refine ⟨fun hAwaits => ?_, fun hAwaits => ?_⟩
    · rw [if_pos hAwaits]
      rfl
    · rw [if_neg hAwaits]
      rfl

/-- R159: the frame that the assembler is about to complete. -/
theorem fbuf_set_of_awaitsLastByte {f : Frame} {s : State} (h : AwaitsLastByte f s) : s.fbuf.set 12 f[12] = f := by
  obtain ⟨-, -, hTake, -⟩ := h
  refine Vector.ext fun i hi => ?_
  rw [Vector.getElem_set]
  split
  case isTrue hLast => simp only [hLast]
  case isFalse hNotLast =>
    have hByte := congrArg (fun l => l[i]?) hTake
    simp only [List.getElem?_take_of_lt (show i < 12 by omega)] at hByte
    simpa [hi] using hByte.symm

theorem gapOf_self (c : Config) (t : Nat) : gapOf c t t = 0 := by simp [gapOf]

/-- Settles O13: the request runs as ASM of the last byte with no gap, so the frame completes
(`asmCompletesAtTheThirteenthByte`), and DECODE_FRAME of it is the meaning of the requested instruction. -/
theorem aRequestedFrameRunsInItsAsmStep : Obligations.ARequestedFrameRunsInItsAsmStep := by
  intro s r rest i f hTake hDecode hFrame hAwaits hLbt
  obtain ⟨hPlace, hMoves⟩ := frameAtCompletion_eq_some hFrame
  have hCompleted : ({ s with pending := rest } : State).fbuf.set 12 f[12] = f := fbuf_set_of_awaitsLastByte hAwaits
  have ⟨hDraining, hPos, _, _⟩ := hAwaits
  obtain ⟨v, hDecoded, hAsm⟩ :=
    asmCompletesAtTheThirteenthByte { s with pending := rest } f[12] s.lbt hDraining hPos hLbt
      (by rw [gapOf_self]; exact Int.natCast_nonneg _)
  rw [hCompleted] at hDecoded hAsm
  have hMeaning := exec_of_frameAtCompletion (decode_ok hDecode).1 hFrame { s with pending := rest }
  refine ⟨v, hMeaning.trans hDecoded, ?_⟩
  obtain ⟨-, -, -, -, -, -, ⟨-, -, hLbtKept⟩, -⟩ := everyRegisterHasItsOnlyWriters _ _ _ hDecoded
  rw [step_of_request hTake hDecode, runRequest, if_pos (hPlace _), perform_of_frameAtCompletion hFrame,
    completeRequested, if_pos (show AwaitsLastByte f { s with pending := rest } from hAwaits)]
  change andThen (exec (.asm f[12] s.lbt) { s with pending := rest }) _ = _
  rw [hAsm, andThen_next, moveByteStep, if_pos hMoves, hLbtKept]

/-- Settles O15: `inPlace` is the order before the step, and what the request delivers moves the byte step on. -/
theorem theByteStepRunsInOrder : Obligations.TheByteStepRunsInOrder := by
  intro s u hStep
  refine ⟨fun b t hNext => ?asm, fun x hNext => ?endPoll, fun hNext => ?drain, fun t hNext => ?pollStep,
    fun hNext => ?pollEnd⟩
  case asm =>
    obtain ⟨rest, v, hSteps⟩ := steps_of_nextRequest hStep hNext
    exact beq_iff_eq.mp hSteps.place
  case endPoll =>
    obtain ⟨rest, v, -, -, hRuns, rfl⟩ := steps_of_nextRequest hStep hNext
    obtain ⟨hReturned, rfl⟩ := hRuns.of_endPoll
    refine ⟨hReturned, ?_⟩
    rw [moveByteStep_byteStep, finishPoll_delivered]
    rfl
  case drain =>
    obtain ⟨rest, v, -, -, hRuns, rfl⟩ := steps_of_nextRequest hStep hNext
    obtain ⟨b, hOutside, rfl⟩ := hRuns.of_drain
    exact ⟨hOutside, b, rfl, rfl⟩
  case pollStep =>
    obtain ⟨rest, v, -, -, hRuns, rfl⟩ := steps_of_nextRequest hStep hNext
    obtain ⟨hOutside, hKept⟩ := hRuns.of_pollStep
    exact ⟨hOutside, hKept.byteStep.trans hOutside⟩
  case pollEnd =>
    obtain ⟨rest, v, -, -, hRuns, rfl⟩ := steps_of_nextRequest hStep hNext
    obtain ⟨hOutside, rfl⟩ := hRuns.of_pollEnd
    exact ⟨hOutside, hOutside⟩

end Sys2Proof.Machine

/-! Runs of the machine: the latch has an ASM step behind it (10_state.md R39 I-5), END_POLL follows the ASM that returned
its result (44_poll.md R179), and every whole poll agrees with the latch (R186). Each is what one request can do
(`Runs`), carried along the steps. -/

namespace Sys2Proof.Machine

/-! Steps, taken from the end. -/

theorem stepAll_succ_eq_next {n : Nat} {s u : State} :
    stepAll (n + 1) s = .next u ↔ ∃ v, stepAll n s = .next v ∧ step v = .next u := by
  have hOne : ∀ v, stepAll 1 v = step v := fun v => by cases h : step v <;> simp [stepAll, h]
  rw [stepAll_add, andThen_eq_next]
  simp only [hOne]

/-! What a step reports, and the latch. -/

/-- A state delivers the result `x` of an ASM step, or the end of a poll with it (R39 I-5). -/
def Reports (u : State) (x : Result) : Prop :=
  u.delivered = .frameResult (some x) ∨ (u.delivered = .pollDone ∧ pollResult u = some (resultValue x))

theorem resultValue_ne_noData (x : Result) : resultValue x ≠ .noData := by cases x <;> exact nofun

@[simp] theorem pollResult_moveByteStep (i : Instr) (s : State) : pollResult (moveByteStep i s) = pollResult s := by
  simp [pollResult]

theorem reports_moveByteStep {i : Instr} {s : State} {x : Result} : Reports (moveByteStep i s) x ↔ Reports s x := by
  simp [Reports]

/-- What a step with ASM in it, or without, reports and does to the latch. -/
inductive LatchEffect (s : State) (i : Instr) (u : State) : Prop
  /-- The latch agrees with the result an ASM step returned. -/
  | classified {x : Result} (hAsm : runsAsm i = true) (hReports : Reports u x) (hShows : u.LatchShows x)
  /-- No ASM step returned a result, and the latch is as before. -/
  | kept (hNone : ∀ x, runsAsm i = true → ¬ Reports u x) (hSame : s.SameLatch u)
  /-- RESET. -/
  | cleared (hAsm : runsAsm i = false) (hClear : u.lerrV = false)

/-- R160, R186: the end of a byte step that returned a result sets the latch to it. -/
theorem latchShows_finishPoll {x : Result} {a : State} (h : a.LatchShows x) : (finishPoll x a).LatchShows x := by
  cases x <;> exact h

/-- The end of a poll reports a result, with which the latch agrees, or reports none and leaves the latch alone. -/
theorem PollEnds.latchEffect {s v u : State} {i : Instr} (hAsm : runsAsm i = true) (hSame : s.SameLatch v)
    (h : PollEnds v u) : LatchEffect s i u := by
  obtain ⟨x, hPort, hLatch, -, -⟩ := h.port
  cases x with
  | none =>
    refine .kept (fun x _ hReports => ?_) (hLatch.of_sameLatch hSame)
    rcases hReports with hDelivered | ⟨-, hPort'⟩
    · cases hDelivered.symm.trans h.delivered
    · exact resultValue_ne_noData x (Option.some.inj (hPort'.symm.trans hPort))
  | some x => exact .classified hAsm (.inr ⟨h.delivered, hPort⟩) hLatch

theorem Runs.latchEffect {s u : State} {i : Instr} (h : Runs s i u) : LatchEffect s i u := by
  cases h with
  | answered hAnswers =>
    obtain ⟨hAsm, -⟩ := answersOnly_outside_poll hAnswers
    exact .kept (fun x hAsm' => absurd (hAsm.symm.trans hAsm') nofun) ⟨rfl, rfl⟩
  | stored => exact .kept nofun ⟨rfl, rfl⟩
  | snapped hSnap => rcases hSnap with rfl | rfl <;> exact .kept nofun ⟨rfl, rfl⟩
  | drained => exact .kept nofun ⟨rfl, rfl⟩
  | @assembled i b t r hAsm _ _ _ hAssembled =>
    have hLatch := assemble_latchAfter hAssembled
    obtain ⟨x, a⟩ := r
    cases x with
    | none => exact .kept (fun x _ hReports => by rcases hReports with h | ⟨h, -⟩ <;> cases h) hLatch
    | some x =>
      refine .classified hAsm (.inl rfl) ?_
      cases x <;> exact hLatch
  | @polledByte b t r _ hByte =>
    obtain ⟨x, a⟩ := r
    cases x with
    | none =>
      refine .kept (fun x _ hReports => ?_) (GoesOn.sameLatch ⟨b, t, a, hByte, rfl⟩)
      rcases hReports with h | ⟨h, -⟩ <;> cases h
    | some x => exact (PollEnds.result hByte).latchEffect rfl ⟨rfl, rfl⟩
  | pollEnded => exact .kept nofun ⟨rfl, rfl⟩
  | @resultEnded x => exact .kept nofun (by cases x <;> exact ⟨rfl, rfl⟩)
  | polled _ hOn hEnd =>
    have hSame : s.SameLatch _ := (goesOnTo_kept hOn).2
    exact hEnd.latchEffect rfl hSame
  | reset => exact .cleared rfl rfl

theorem Steps.classified_iff {s v u : State} {i : Instr} {rest : List Instant} (h : Steps s i rest v u) (x : Result) :
    Classified s u x ↔ runsAsm i = true ∧ Reports v x := by
  rw [← reports_moveByteStep (i := i), ← h.moved]
  simp only [Classified, h.request, Option.any_some, Reports]

/-- R39 I-5, for one step: if the latch holds a code after it, the step classified an Error Report with that code, or it
classified nothing and the latch held the code before. -/
theorem latch_of_step {v u : State} (hStep : step v = .next u) (hValid : u.lerrV = true) :
    Classified v u (.errorReport u.lerrCode) ∨ ((∀ x, ¬ Classified v u x) ∧ v.SameLatch u) := by
  rcases step_eq_next hStep with ⟨hNone, rfl⟩ | ⟨i, rest, w, hSteps⟩
  · refine .inr ⟨fun x hClass => ?_, rfl, rfl⟩
    rw [Classified, hNone] at hClass
    exact absurd hClass.1 nofun
  · have hMoved := hSteps.moved
    have hw : w.lerrV = true := by rw [← hValid, hMoved, moveByteStep_lerrV]
    have hCode : u.lerrCode = w.lerrCode := by rw [hMoved, moveByteStep_lerrCode]
    cases hSteps.runs.latchEffect with
    | @classified x hAsm hReports hShows =>
      cases x with
      | measurement mm => cases hw.symm.trans hShows
      | errorReport code =>
        obtain ⟨-, rfl⟩ := hShows
        exact .inl ((hSteps.classified_iff _).mpr ⟨hAsm, hCode ▸ hReports⟩)
    | kept hNone hSame =>
      obtain ⟨hSameValid, hSameCode⟩ := hSame
      refine .inr ⟨fun x hClass => ?_, ?_, hCode.trans hSameCode⟩
      · obtain ⟨hAsm, hReports⟩ := (hSteps.classified_iff x).mp hClass
        exact hNone x hAsm hReports
      · rw [hValid, ← hw]
        exact hSameValid
    | cleared _ hClear => cases hw.symm.trans hClear

theorem stepAll_unique {n : Nat} {s u v : State} (hu : stepAll n s = .next u) (hv : stepAll n s = .next v) : u = v := by
  cases hu.symm.trans hv
  rfl

theorem step_unique {s u v : State} (hu : step s = .next u) (hv : step s = .next v) : u = v := by
  cases hu.symm.trans hv
  rfl

/-- Settles O14, by induction on the steps, the last one first: it classified the Error Report, or it classified nothing
and the latch comes from the steps before it. -/
theorem anErrorLatchHasAnAsmStepBehindIt : Obligations.AnErrorLatchHasAnAsmStepBehindIt := by
  intro s u n hClear
  induction n generalizing u with
  | zero =>
    intro hRun hValid
    cases hRun
    cases hClear.symm.trans hValid
  | succ n ih =>
    intro hRun hValid
    obtain ⟨v, hBefore, hStep⟩ := stepAll_succ_eq_next.mp hRun
    rcases latch_of_step hStep hValid with hClass | ⟨hNone, hSameValid, hSameCode⟩
    · exact ⟨n, v, u, Nat.lt_succ_self n, hBefore, hStep, hClass, fun k a b mm hk hk' => by omega⟩
    · obtain ⟨m, a, b, hm, ha, hb, hClass, hLater⟩ := ih v hBefore (hSameValid ▸ hValid)
      refine ⟨m, a, b, by omega, ha, hb, hSameCode ▸ hClass, fun k c d mm hmk hkn hc hd => ?_⟩
      rcases Nat.lt_succ_iff_lt_or_eq.mp hkn with hk | rfl
      · exact hLater k c d mm hmk hk hc hd
      · obtain rfl := stepAll_unique hBefore hc
        obtain rfl := step_unique hStep hd
        exact hNone _

/-! The byte step requested in parts (R177, R179). -/

theorem outside_of_idle {s : State} (h : s.ByteStepInPoll) (hIdle : s.phase = .idle) : s.byteStep = .outside := by
  by_contra hUnderWay
  cases hIdle.symm.trans (h hUnderWay)

theorem byteStepInPoll_of_outside {s : State} (h : s.byteStep = .outside) : s.ByteStepInPoll := fun hNot => absurd h hNot

theorem byteStep_of_poll {s v u : State} (hOn : GoesOnTo s v) (hEnd : PollEnds v u) : u.byteStep = s.byteStep :=
  hEnd.kept.byteStep.trans (goesOnTo_kept hOn).1.byteStep

/-- A byte step is under way during a poll only, whatever runs. -/
theorem Runs.byteStepInPoll {s v : State} {i : Instr} (hInPoll : s.ByteStepInPoll) (h : Runs s i v) :
    (moveByteStep i v).ByteStepInPoll := by
  cases h with
  | answered hAnswers =>
    obtain ⟨-, hMoves⟩ := answersOnly_outside_poll hAnswers
    rw [moveByteStep, hMoves]
    exact hInPoll
  | stored => exact hInPoll
  | snapped hSnap =>
    rcases hSnap with rfl | rfl <;> exact fun _ => rfl
  | drained _ hDraining => exact fun _ => hDraining
  | assembled _ _ _ hDraining hAssembled =>
    have hFrame := assemble_snd hAssembled
    intro _
    rw [moveByteStep_phase, deliver_phase, hFrame]
    exact hDraining
  | polledByte hOutside hByte =>
    exact byteStepInPoll_of_outside ((keptByPoll_afterByte hByte).byteStep.trans hOutside)
  | pollEnded hOutside => exact byteStepInPoll_of_outside hOutside
  | @resultEnded x => exact byteStepInPoll_of_outside (by cases x <;> rfl)
  | polled hIdle hOn hEnd =>
    have hOutside := outside_of_idle hInPoll hIdle
    exact byteStepInPoll_of_outside ((byteStep_of_poll hOn hEnd).trans hOutside)
  | reset => exact byteStepInPoll_of_outside rfl

theorem step_keeps_byteStepInPoll {s u : State} (hInPoll : s.ByteStepInPoll) (hStep : step s = .next u) :
    u.ByteStepInPoll := by
  rcases step_eq_next hStep with ⟨-, rfl⟩ | ⟨i, rest, v, hSteps⟩
  · exact hInPoll
  · rw [hSteps.moved]
    exact Runs.byteStepInPoll (s := { s with pending := rest }) hInPoll hSteps.runs

/-- TAIL, the assembler's registers and the latch of `u` are those of `s`. -/
structure SameAssembler (s u : State) : Prop where
  tail : u.tail = s.tail
  pos : u.pos = s.pos
  fbuf : u.fbuf = s.fbuf
  lbt : u.lbt = s.lbt
  lerrV : u.lerrV = s.lerrV
  lerrCode : u.lerrCode = s.lerrCode

theorem SameAssembler.refl (s : State) : SameAssembler s s := ⟨rfl, rfl, rfl, rfl, rfl, rfl⟩

theorem SameAssembler.trans {s v u : State} (h : SameAssembler s v) (h' : SameAssembler v u) : SameAssembler s u :=
  ⟨h'.tail.trans h.tail, h'.pos.trans h.pos, h'.fbuf.trans h.fbuf, h'.lbt.trans h.lbt, h'.lerrV.trans h.lerrV,
    h'.lerrCode.trans h.lerrCode⟩

/-- R179: a result waits for END_POLL after a request only if that request was the ASM step that returned it, or the
result waited before and the request touched neither TAIL nor the assembler. -/
theorem Runs.returned {s v : State} {i : Instr} {x : Result} (hInPoll : s.ByteStepInPoll) (h : Runs s i v)
    (hReturned : (moveByteStep i v).byteStep = .returned x) :
    (runsAsm i = true ∧ v.delivered = .frameResult (some x)) ∨ (s.byteStep = .returned x ∧ SameAssembler s v) := by
  cases h with
  | answered hAnswers =>
    obtain ⟨-, hMoves⟩ := answersOnly_outside_poll hAnswers
    rw [moveByteStep, hMoves] at hReturned
    exact .inr ⟨hReturned, rfl, rfl, rfl, rfl, rfl, rfl⟩
  | stored => exact .inr ⟨hReturned, rfl, rfl, rfl, rfl, rfl, rfl⟩
  | snapped hSnap =>
    rcases hSnap with rfl | rfl <;> exact .inr ⟨hReturned, rfl, rfl, rfl, rfl, rfl, rfl⟩
  | drained => cases hReturned
  | @assembled i b t r hAsm hMoves =>
    rw [moveByteStep_byteStep, if_pos hMoves] at hReturned
    obtain ⟨y, a⟩ := r
    cases y with
    | none => cases hReturned
    | some y =>
      cases hReturned
      exact .inl ⟨hAsm, rfl⟩
  | polledByte hOutside hByte =>
    cases ((keptByPoll_afterByte hByte).byteStep.trans hOutside).symm.trans hReturned
  | pollEnded hOutside => cases hOutside.symm.trans hReturned
  | @resultEnded y => cases y <;> cases hReturned
  | polled hIdle hOn hEnd =>
    have hOutside := outside_of_idle hInPoll hIdle
    cases ((byteStep_of_poll hOn hEnd).trans hOutside).symm.trans hReturned
  | reset => cases hReturned

/-- R179, along a run of `n` steps from `s` to `v`: the result that waits for END_POLL was returned by an ASM step of the
run, and TAIL and the assembler are as that step left them. -/
def ReturnedBefore (s v : State) (n : Nat) (x : Result) : Prop :=
  ∃ (m : Nat) (a b : State), m < n ∧ stepAll m s = .next a ∧ step a = .next b ∧ Classified a b x ∧
    b.delivered = .frameResult (some x) ∧ SameAssembler b v

theorem returnedBefore_of_stepAll {s v : State} {n : Nat} {x : Result} (hOutside : s.byteStep = .outside)
    (hRun : stepAll n s = .next v) : v.ByteStepInPoll ∧ (v.byteStep = .returned x → ReturnedBefore s v n x) := by
  induction n generalizing v with
  | zero =>
    cases hRun
    exact ⟨byteStepInPoll_of_outside hOutside, fun h => by cases hOutside.symm.trans h⟩
  | succ n ih =>
    obtain ⟨w, hBefore, hStep⟩ := stepAll_succ_eq_next.mp hRun
    obtain ⟨hInPoll, hWaits⟩ := ih hBefore
    refine ⟨step_keeps_byteStepInPoll hInPoll hStep, fun hReturned => ?_⟩
    have hLonger : ∀ {v'}, SameAssembler w v' → w.byteStep = .returned x → ReturnedBefore s v' (n + 1) x := by
      intro v' hSame hw
      obtain ⟨m, a, b, hm, ha, hb, hClass, hDelivered, hSame'⟩ := hWaits hw
      exact ⟨m, a, b, by omega, ha, hb, hClass, hDelivered, hSame'.trans hSame⟩
    rcases step_eq_next hStep with ⟨-, rfl⟩ | ⟨i, rest, u, hSteps⟩
    · exact hLonger (.refl _) hReturned
    · have hMoved := hSteps.moved
      rw [hMoved] at hReturned
      rcases Runs.returned (s := { w with pending := rest }) hInPoll hSteps.runs hReturned with
        ⟨hAsm, hDelivered⟩ | ⟨hw, hSame⟩
      · refine ⟨n, w, v, Nat.lt_succ_self n, hBefore, hStep,
          (hSteps.classified_iff x).mpr ⟨hAsm, .inl hDelivered⟩, ?_, .refl v⟩
        rw [hMoved, moveByteStep_delivered, hDelivered]
      · have hKept : SameAssembler u (moveByteStep i u) := by
          constructor <;> simp
        rw [hMoved]
        obtain ⟨hTail, hPos, hFbuf, hLbt, hValid, hCode⟩ := hSame
        exact hLonger (SameAssembler.trans ⟨hTail, hPos, hFbuf, hLbt, hValid, hCode⟩ hKept) hw

/-- Settles O16: END_POLL(x) is in its place only where the result x waits (`inPlace`), and that has an ASM step of the run
behind it (`returnedBefore_of_stepAll`). -/
theorem endPollFollowsTheAsmThatReturned : Obligations.EndPollFollowsTheAsmThatReturned := by
  intro s v w n x hOutside hRun hNext hStep
  obtain ⟨rest, u, hSteps⟩ := steps_of_nextRequest hStep hNext
  have hWaits : v.byteStep = .returned x := beq_iff_eq.mp hSteps.place
  obtain ⟨m, a, b, hm, ha, hb, hClass, hDelivered, hTail, hPos, hFbuf, hLbt, hValid, hCode⟩ :=
    (returnedBefore_of_stepAll hOutside hRun).2 hWaits
  exact ⟨m, a, b, hm, ha, hb, hClass, hDelivered, hTail, hPos, hFbuf, hLbt, hValid, hCode⟩

/-! Whole polls (R186). -/

/-- The result that ASM has returned, where END_POLL of it is still to come. -/
def ByteStep.result : ByteStep → Option Result
  | .outside => none
  | .drained _ => none
  | .returned x => some x

/-- A poll that began at `s` is under way at `v`: it has not been reported as done, and the latch agrees with the result
that waits for END_POLL, or is that of `s` where none does. -/
structure UnderWay (s v : State) : Prop where
  draining : v.phase = .draining
  notDone : v.delivered ≠ .pollDone
  latch : s.LatchAfter v v.byteStep.result

/-- Where no result waits the latch is as it was when the poll began. -/
theorem UnderWay.sameLatch {s v : State} (h : UnderWay s v) (hNone : v.byteStep.result = none) : s.SameLatch v := by
  have hLatch := h.latch
  rw [hNone] at hLatch
  exact hLatch

/-- R183, R176: the request that starts a poll in PHASE IDLE and does not end it is a SNAP, which leaves the latch alone. -/
theorem Runs.starts {s v : State} {i : Instr} (hInPoll : s.ByteStepInPoll) (hIdle : s.phase = .idle) (h : Runs s i v)
    (hDraining : v.phase = .draining) : UnderWay s (moveByteStep i v) := by
  have hOutside := outside_of_idle hInPoll hIdle
  cases h with
  | snapped hSnap =>
    rcases hSnap with rfl | rfl
    all_goals
      refine ⟨rfl, nofun, ?_⟩
      change s.LatchAfter _ s.byteStep.result
      rw [hOutside]
      exact ⟨rfl, rfl⟩
  | answered => cases hIdle.symm.trans hDraining
  | stored => cases hIdle.symm.trans hDraining
  | drained _ hBusy => cases hIdle.symm.trans hBusy
  | assembled _ _ _ hBusy => cases hIdle.symm.trans hBusy
  | polledByte _ hByte => cases hIdle.symm.trans hByte.draining
  | pollEnded _ hBusy => cases hIdle.symm.trans hBusy
  | resultEnded _ hBusy => cases hIdle.symm.trans hBusy
  | polled _ _ hEnd => cases hDraining.symm.trans hEnd.phase
  | reset => cases hDraining

/-- R177, R179: a request that leaves the poll under way keeps the latch in agreement with what waits for END_POLL. -/
theorem Runs.continues {s v w : State} {i : Instr} (hUnderWay : UnderWay s v) (h : Runs v i w)
    (hDraining : w.phase = .draining) : UnderWay s (moveByteStep i w) := by
  have ⟨hBusy, _, hLatch⟩ := hUnderWay
  cases h with
  | answered hAnswers hDelivered =>
    obtain ⟨-, hMoves⟩ := answersOnly_outside_poll hAnswers
    rw [moveByteStep, hMoves]
    exact ⟨hBusy, hDelivered, hLatch⟩
  | stored => exact ⟨hBusy, nofun, hLatch⟩
  | snapped _ hIdle => cases hIdle.symm.trans hBusy
  | drained hOutside => exact ⟨hBusy, nofun, hUnderWay.sameLatch (by rw [hOutside]; rfl)⟩
  | @assembled i b t r _ hMoves hDrained _ hAssembled =>
    have hSame := hUnderWay.sameLatch (by rw [hDrained]; rfl)
    have hAfter := (assemble_latchAfter hAssembled).of_sameLatch hSame
    obtain ⟨x, a⟩ := r
    rw [moveByteStep, if_pos hMoves]
    cases x <;> exact ⟨hDraining, nofun, hAfter⟩
  | @polledByte b t r hOutside hByte =>
    obtain ⟨x, a⟩ := r
    cases x with
    | none =>
      have hSame := hUnderWay.sameLatch (by rw [hOutside]; rfl)
      have hOn : GoesOn v (afterByte (none, a)) := ⟨b, t, a, hByte, rfl⟩
      refine ⟨hDraining, nofun, ?_⟩
      change s.LatchAfter (afterByte (none, a)) (afterByte (none, a)).byteStep.result
      rw [hOn.kept.byteStep, hOutside]
      exact State.LatchAfter.of_sameLatch (x := none) hSame hOn.sameLatch
    | some x => cases hDraining.symm.trans (PollEnds.result hByte).phase
  | pollEnded => cases hDraining
  | resultEnded => cases hDraining.symm.trans (finishPoll_phase _ _)
  | polled hIdle => cases hIdle.symm.trans hBusy
  | reset => cases hDraining

theorem endsWith_of_pollEnds {s v u : State} (hSame : s.SameLatch v) (h : PollEnds v u) : ∃ x, EndsWith s u x := by
  obtain ⟨x, hPort, hLatch, -, -⟩ := h.port
  exact ⟨x, hPort, hLatch.of_sameLatch hSame⟩

/-- R186: the request that ends a poll under way leaves a port and a latch that agree. -/
theorem Runs.ends {s v w : State} {i : Instr} (hUnderWay : UnderWay s v) (h : Runs v i w)
    (hDone : w.delivered = .pollDone) : ∃ x, EndsWith s w x := by
  have ⟨hBusy, _, hLatch⟩ := hUnderWay
  cases h with
  | answered _ hDelivered => exact absurd hDone hDelivered
  | stored => cases hDone
  | snapped => cases hDone
  | drained => cases hDone
  | assembled => cases hDone
  | @polledByte b t r hOutside hByte =>
    have hSame := hUnderWay.sameLatch (by rw [hOutside]; rfl)
    obtain ⟨x, a⟩ := r
    cases x with
    | none => cases hDone
    | some x => exact endsWith_of_pollEnds hSame (.result hByte)
  | pollEnded hOutside hDraining hEmpty =>
    have hSame := hUnderWay.sameLatch (by rw [hOutside]; rfl)
    exact endsWith_of_pollEnds hSame (.drained hDraining hEmpty)
  | @resultEnded x hReturned =>
    rw [hReturned] at hLatch
    exact ⟨some x, pollResult_finishPoll x v, latchShows_finishPoll hLatch⟩
  | polled hIdle => cases hIdle.symm.trans hBusy
  | reset => cases hDone

/-- R181: the one request that starts and ends a poll is POLL in the one-step form. -/
theorem Runs.starts_and_ends {s v : State} {i : Instr} (hIdle : s.phase = .idle) (h : Runs s i v)
    (hDone : v.delivered = .pollDone) : ∃ x, EndsWith s v x := by
  cases h with
  | polled _ hOn hEnd =>
    have hSame : s.SameLatch _ := (goesOnTo_kept hOn).2
    exact endsWith_of_pollEnds hSame hEnd
  | answered _ hDelivered => exact absurd hDone hDelivered
  | stored => cases hDone
  | snapped => cases hDone
  | drained => cases hDone
  | assembled => cases hDone
  | polledByte _ hByte => cases hIdle.symm.trans hByte.draining
  | pollEnded _ hBusy => cases hIdle.symm.trans hBusy
  | resultEnded _ hBusy => cases hIdle.symm.trans hBusy
  | reset => cases hDone

theorem endsWith_moveByteStep {s v : State} {i : Instr} {x : Option Result} (h : EndsWith s v x) :
    EndsWith s (moveByteStep i v) x := by
  obtain ⟨hPort, hLatch⟩ := h
  refine ⟨(pollResult_moveByteStep i v).trans hPort, ?_⟩
  rcases x with _ | mm | code <;> simpa [State.LatchAfter, State.LatchShows, State.SameLatch] using hLatch

/-- The requests still pending do not matter to a poll under way. -/
theorem UnderWay.with_pending {s v : State} (h : UnderWay s v) (rest : List Instant) :
    UnderWay s { v with pending := rest } := by
  obtain ⟨hDraining, hNotDone, hLatch⟩ := h
  refine ⟨hDraining, hNotDone, ?_⟩
  change s.LatchAfter { v with pending := rest } v.byteStep.result
  generalize v.byteStep.result = x at hLatch ⊢
  rcases x with _ | mm | code <;> exact hLatch

/-- What R186 asks of a step of a poll that began at `s`: it leaves the poll under way, or ends it with a port and a latch
that agree. -/
def KeepsPoll (s u : State) : Prop :=
  (u.phase = .draining → UnderWay s u) ∧ (u.delivered = .pollDone → ∃ x, EndsWith s u x)

theorem keepsPoll_of_underWay {s v u : State} (hUnderWay : UnderWay s v) (hStep : step v = .next u) :
    KeepsPoll s u := by
  rcases step_eq_next hStep with ⟨-, rfl⟩ | ⟨i, rest, w, hSteps⟩
  · exact ⟨fun _ => hUnderWay, fun hDone => absurd hDone hUnderWay.notDone⟩
  · obtain ⟨-, -, hRuns, rfl⟩ := hSteps
    have hRequested := hUnderWay.with_pending rest
    rw [KeepsPoll, moveByteStep_phase, moveByteStep_delivered]
    refine ⟨hRuns.continues hRequested, fun hDone => ?_⟩
    obtain ⟨x, hEnds⟩ := hRuns.ends hRequested hDone
    exact ⟨x, endsWith_moveByteStep hEnds⟩

theorem keepsPoll_of_idle {s u : State} (hInPoll : s.ByteStepInPoll) (hIdle : s.phase = .idle)
    (hTaken : (nextRequest s).isSome = true) (hStep : step s = .next u) : KeepsPoll s u := by
  rcases step_eq_next hStep with ⟨hNone, -⟩ | ⟨i, rest, w, hSteps⟩
  · rw [hNone] at hTaken
    cases hTaken
  · obtain ⟨-, -, hRuns, rfl⟩ := hSteps
    rw [KeepsPoll, moveByteStep_phase, moveByteStep_delivered]
    have hSame : s.SameLatch { s with pending := rest } := ⟨rfl, rfl⟩
    refine ⟨fun hDraining => ?_, fun hDone => ?_⟩
    · obtain ⟨hBusy, hNotDone, hLatch⟩ :=
        Runs.starts (s := { s with pending := rest }) hInPoll hIdle hRuns hDraining
      exact ⟨hBusy, hNotDone, hLatch.of_sameLatch hSame⟩
    · obtain ⟨x, hEnds⟩ := Runs.starts_and_ends (s := { s with pending := rest }) hIdle hRuns hDone
      obtain ⟨hPort, hLatch⟩ := endsWith_moveByteStep (i := i) hEnds
      exact ⟨x, hPort, hLatch.of_sameLatch hSame⟩

/-- Along a whole poll every step keeps it. -/
theorem keepsPoll_of_wholePoll {n : Nat} {s u : State} (hInPoll : s.ByteStepInPoll) (h : WholePoll n s u) {k : Nat}
    (hk : k < n) {v : State} (hRun : stepAll (k + 1) s = .next v) : KeepsPoll s v := by
  obtain ⟨-, hTaken, hIdle, -, -, hBetween⟩ := h
  induction k generalizing v with
  | zero =>
    obtain ⟨w, hStart, hStep⟩ := stepAll_succ_eq_next.mp hRun
    cases hStart
    exact keepsPoll_of_idle hInPoll hIdle hTaken hStep
  | succ k ih =>
    obtain ⟨w, hBefore, hStep⟩ := stepAll_succ_eq_next.mp hRun
    obtain ⟨hUnderWay, -⟩ := ih (by omega) hBefore
    exact keepsPoll_of_underWay (hUnderWay (hBetween (k + 1) w (by omega) hk hBefore)) hStep

/-- Settles O17: the last step of a whole poll delivers `poll_done`, so it ends it as R186 asks. -/
theorem everyWholePollAgreesWithTheLatch : Obligations.EveryWholePollAgreesWithTheLatch := by
  intro n s u hInv hPoll
  obtain ⟨-, -, -, -, -, -, hInPoll⟩ := hInv
  have ⟨hPos, _, _, hRun, hDone, _⟩ := hPoll
  obtain ⟨k, rfl⟩ : ∃ k, n = k + 1 := ⟨n - 1, by omega⟩
  obtain ⟨-, hEnds⟩ := keepsPoll_of_wholePoll hInPoll hPoll (Nat.lt_succ_self k) hRun
  obtain ⟨x, hEndsWith⟩ := hEnds hDone
  exact hEndsWith.latch_agrees

end Sys2Proof.Machine

/-! The invariant (10_state.md R38, R39): it holds after reset, every step keeps it, and under it no step faults. -/

namespace Sys2Proof.Machine

/-! The part of the invariant that speaks of the block alone. -/

/-- Inv but for the byte step requested in parts, which is the model's own (entry 10). -/
abbrev State.BlockInv (s : State) : Prop :=
  s.cfg.Valid ∧ s.RingWf ∧ s.CursorsInRange ∧ s.AssemblerInRange ∧ s.resKind ≠ 3 ∧ s.UnreadIsWritten

theorem State.inv_iff (s : State) : s.Inv ↔ s.BlockInv ∧ s.ByteStepInPoll := by
  unfold State.Inv State.BlockInv
  tauto

theorem State.Inv.blockInv {s : State} (h : s.Inv) : s.BlockInv := (s.inv_iff.mp h).1

/-! The cursors. -/

theorem nextIndex_eq {c : Config} {x : Nat} (h : x < c.capacity) :
    nextIndex c x = if x + 1 = c.capacity then 0 else x + 1 := by
  unfold nextIndex
  split
  case isTrue hWrap => rw [hWrap, Nat.mod_self]
  case isFalse => exact Nat.mod_eq_of_lt (by omega)

/-- R38 (a): the byte about to be drained is written. -/
theorem State.BlockInv.byte_at_tail {s : State} (h : s.BlockInv) (hDraining : s.phase = .draining)
    (hUnread : s.tail ≠ s.hsnap) : ∃ b, Memory.read s.ring s.tail = some b := by
  obtain ⟨-, -, ⟨-, hTail, -⟩, -, -, hAll | ⟨hBelow, -, hOrder⟩⟩ := h
  · exact Option.isSome_iff_exists.mp (hAll s.tail hTail)
  · obtain ⟨hLe, hLe'⟩ := hOrder hDraining
    exact Option.isSome_iff_exists.mp (hBelow s.tail (by omega))

/-! Each operation keeps it. -/

theorem isSome_read_write {m : Memory} {i j : Nat} {v : Byte} (h : j = i ∨ (Memory.read m j).isSome = true) :
    (Memory.read (Memory.write m i v) j).isSome = true := by
  by_cases hEq : j = i
  · rw [hEq, Memory.read_write_same]
    rfl
  · rw [Memory.read_write_other m i j v hEq]
    exact h.resolve_left hEq

/-- R100: a byte stored at HEAD. -/
theorem State.BlockInv.stored {s : State} (h : s.BlockInv) (b : Byte) :
    ({ s with ring := Memory.write s.ring s.head b, head := nextIndex s.cfg s.head, delivered := .nothing } :
      State).BlockInv := by
  obtain ⟨hValid, ⟨hRing, hCells⟩, ⟨hHead, hTail, hHsnap⟩, hAssembler, hKind, hWritten⟩ := h
  refine ⟨hValid, ⟨Memory.wf_write _ _ _ hRing, fun c hc => ?_⟩, ⟨nextIndex_lt hValid.1 _, hTail, hHsnap⟩, hAssembler, hKind,
    ?_⟩
  · rcases Memory.mem_write _ _ _ c hc with rfl | hOld
    · exact hHead
    · exact hCells c hOld
  · rcases hWritten with hAll | ⟨hBelow, hOrder, hOrder'⟩
    · exact .inl fun i hi => isSome_read_write (.inr (hAll i hi))
    · have hUpTo : ∀ i, i < s.head + 1 → (Memory.read (Memory.write s.ring s.head b) i).isSome = true := fun i hi =>
        isSome_read_write ((Nat.lt_succ_iff_lt_or_eq.mp hi).symm.imp id (hBelow i))
      have hNext := nextIndex_eq hHead
      split at hNext
      case isTrue hWrap => exact .inl fun i hi => hUpTo i (hWrap.symm ▸ hi)
      case isFalse =>
        refine .inr ⟨fun i hi => hUpTo i (hNext ▸ hi), ?_, fun hDraining => ?_⟩
        · change s.tail ≤ nextIndex s.cfg s.head
          omega
        · obtain ⟨hLe, hLe'⟩ := hOrder' hDraining
          refine ⟨hLe, ?_⟩
          change s.hsnap ≤ nextIndex s.cfg s.head
          omega

/-- R103: the SNAP of a poll. -/
theorem State.BlockInv.snapped {s : State} (h : s.BlockInv) (d : Delivered) :
    ({ s with hsnap := s.head, phase := .draining, delivered := d } : State).BlockInv := by
  obtain ⟨hValid, hRing, ⟨hHead, hTail, -⟩, hAssembler, hKind, hWritten⟩ := h
  exact ⟨hValid, hRing, ⟨hHead, hTail, fun _ => hHead⟩, hAssembler, hKind,
    hWritten.imp id fun ⟨hBelow, hOrder, _⟩ => ⟨hBelow, hOrder, fun _ => ⟨hOrder, le_refl _⟩⟩⟩

/-- R105: the byte at TAIL is taken. -/
theorem State.BlockInv.drained {s : State} (h : s.BlockInv) (hDraining : s.phase = .draining)
    (hUnread : s.tail ≠ s.hsnap) : s.drained.BlockInv := by
  obtain ⟨hValid, hRing, ⟨hHead, hTail, hHsnap⟩, hAssembler, hKind, hWritten⟩ := h
  have hIndex := hHsnap hDraining
  refine ⟨hValid, hRing, ⟨hHead, nextIndex_lt hValid.1 _, hHsnap⟩, hAssembler, hKind, hWritten.imp id ?_⟩
  rintro ⟨hBelow, hOrder, hOrder'⟩
  obtain ⟨hLe, hLe'⟩ := hOrder' hDraining
  have hNext : nextIndex s.cfg s.tail = s.tail + 1 := by
    rw [nextIndex_eq hTail, if_neg (by omega)]
  refine ⟨hBelow, ?_, fun _ => ⟨?_, hLe'⟩⟩
  · change nextIndex s.cfg s.tail ≤ s.head
    omega
  · change nextIndex s.cfg s.tail ≤ s.hsnap
    omega

/-- R120: ASM of any byte. -/
theorem State.BlockInv.assembled {s : State} {b : Byte} {t : Nat} {r : Option Result × State} (h : s.BlockInv)
    (hAssembled : assemble b t s = .next r) : r.2.BlockInv := by
  obtain ⟨hValid, hRing, hCursors, ⟨-, hHeader, -⟩, hKind, hWritten⟩ := h
  have hPos := assemble_pos_le hAssembled
  have hHeader' := assemble_header hAssembled hHeader
  have hLbt : r.2.lbt < 2 ^ s.cfg.wT := by
    rw [assemble_frame hAssembled]
    exact sampleTime_lt s.cfg t
  rw [assemble_snd hAssembled]
  exact ⟨hValid, hRing, hCursors, ⟨hPos, hHeader', hLbt⟩, hKind, hWritten⟩

/-- R178: the end of a poll with NoData. -/
theorem State.BlockInv.endedEmpty {s : State} (h : s.BlockInv) : s.endedEmpty.BlockInv := by
  obtain ⟨hValid, hRing, ⟨hHead, hTail, -⟩, hAssembler, -, hWritten⟩ := h
  exact ⟨hValid, hRing, ⟨hHead, hTail, nofun⟩, hAssembler, (by decide : (0 : BitVec 2) ≠ 3),
    hWritten.imp id fun ⟨hBelow, hOrder, _⟩ => ⟨hBelow, hOrder, nofun⟩⟩

/-- R179: the end of a poll with a result. -/
theorem State.BlockInv.finished {s : State} (h : s.BlockInv) (x : Result) : (finishPoll x s).BlockInv := by
  obtain ⟨hValid, hRing, ⟨hHead, hTail, -⟩, hAssembler, -, hWritten⟩ := h
  have hIdle : (∀ i, i < s.cfg.capacity → s.Written i) ∨
      ((∀ i, i < s.head → s.Written i) ∧ s.tail ≤ s.head ∧
        (Phase.idle = .draining → s.tail ≤ s.hsnap ∧ s.hsnap ≤ s.head)) :=
    hWritten.imp id fun ⟨hBelow, hOrder, _⟩ => ⟨hBelow, hOrder, nofun⟩
  cases x with
  | measurement mm =>
    exact ⟨hValid, hRing, ⟨hHead, hTail, nofun⟩, hAssembler, (by decide : (1 : BitVec 2) ≠ 3), hIdle⟩
  | errorReport code =>
    exact ⟨hValid, hRing, ⟨hHead, hTail, nofun⟩, hAssembler, (by decide : (2 : BitVec 2) ≠ 3), hIdle⟩

/-- R187. -/
theorem State.BlockInv.reset {s : State} (h : s.BlockInv) : (resetBlock s).BlockInv := by
  obtain ⟨hValid, -⟩ := h
  have hCapacity : 0 < s.cfg.capacity := lt_of_lt_of_le Nat.zero_lt_two hValid.1
  exact ⟨hValid, ⟨rfl, nofun⟩, ⟨hCapacity, hCapacity, nofun⟩, ⟨Nat.zero_le _, fun h => absurd rfl h, sampleTime_lt _ _⟩,
    (by decide : (0 : BitVec 2) ≠ 3), .inr ⟨fun i hi => absurd hi (Nat.not_lt_zero i), le_refl _, nofun⟩⟩

/-! Polls and requests keep it. -/

theorem ByteTaken.blockInv {s : State} {b : Byte} {t : Nat} {r : Option Result × State} (hInv : s.BlockInv)
    (h : ByteTaken s b t r) : r.2.BlockInv :=
  (hInv.drained h.draining h.unread).assembled h.assembled

theorem GoesOn.blockInv {s u : State} (hInv : s.BlockInv) (h : GoesOn s u) : u.BlockInv := by
  obtain ⟨b, t, a, hByte, rfl⟩ := h
  exact hByte.blockInv hInv

theorem PollEnds.blockInv {s u : State} (hInv : s.BlockInv) (h : PollEnds s u) : u.BlockInv := by
  cases h with
  | drained => exact hInv.endedEmpty
  | result hByte => exact (hByte.blockInv hInv).finished _

theorem goesOnTo_blockInv {s v : State} (hInv : s.BlockInv) (h : GoesOnTo s v) : v.BlockInv := by
  induction h with
  | refl => exact hInv
  | tail _ hStep ih => exact hStep.blockInv ih

theorem afterByte_blockInv {r : Option Result × State} (h : r.2.BlockInv) : (afterByte r).BlockInv := by
  obtain ⟨x, a⟩ := r
  cases x with
  | none => exact h
  | some x => exact h.finished x

theorem Runs.blockInv {s v : State} {i : Instr} (hInv : s.BlockInv) (h : Runs s i v) : v.BlockInv := by
  cases h with
  | answered => exact hInv
  | stored => exact hInv.stored _
  | snapped => exact hInv.snapped _
  | drained _ hDraining hUnread => exact hInv.drained hDraining hUnread
  | assembled _ _ _ _ hAssembled => exact hInv.assembled hAssembled
  | polledByte _ hByte => exact afterByte_blockInv (hByte.blockInv hInv)
  | pollEnded => exact hInv.endedEmpty
  | resultEnded => exact hInv.finished _
  | polled _ hOn hEnd => exact hEnd.blockInv (goesOnTo_blockInv (hInv.snapped _) hOn)
  | reset => exact hInv.reset

theorem moveByteStep_blockInv {i : Instr} {v : State} (h : v.BlockInv) : (moveByteStep i v).BlockInv := by
  unfold moveByteStep
  split <;> exact h

/-! Under it no operation faults. -/

/-- The outcome is no fault. -/
def NoFault {α : Type} (o : Res α) : Prop := ∀ e, o ≠ .fault e

theorem noFault_next {α : Type} (a : α) : NoFault (.next a : Res α) := nofun

theorem noFault_refused {α : Type} (e : Refusal) : NoFault (.refused e : Res α) := nofun

theorem noFault_andThen {α β : Type} {o : Res α} {k : α → Res β} (hFirst : NoFault o)
    (hThen : ∀ a, o = .next a → NoFault (k a)) : NoFault (andThen o k) := by
  intro e hFault
  rcases andThen_eq_fault.mp hFault with h | ⟨a, ha, h⟩
  · exact hFirst e h
  · exact hThen a ha e h

theorem noFault_drainByte {s : State} (hInv : s.BlockInv) : NoFault (drainByte s) := by
  cases hPhase : s.phase with
  | idle =>
    rw [drainByte_of_idle hPhase]
    exact noFault_refused _
  | draining =>
    by_cases hEmpty : s.tail = s.hsnap
    · rw [drainByte_of_drained hPhase hEmpty]
      exact noFault_refused _
    · obtain ⟨b, hByte⟩ := hInv.byte_at_tail hPhase hEmpty
      obtain ⟨-, -, ⟨-, hTail, -⟩, -⟩ := hInv
      rw [drainByte_of_readable hPhase hEmpty hTail hByte]
      exact noFault_next _

theorem noFault_assemble {s : State} (hInv : s.BlockInv) (b : Byte) (t : Nat) : NoFault (assemble b t s) := by
  obtain ⟨-, -, -, ⟨hPos, -⟩, -⟩ := hInv
  obtain ⟨r, hAssembled⟩ := assemble_completes (b := b) (t := t) hPos
  rw [hAssembled]
  exact noFault_next r

theorem noFault_pollByte {s : State} (hInv : s.BlockInv) (t : Nat) : NoFault (pollByte t s) := by
  refine noFault_andThen (noFault_drainByte hInv) fun d hDrain => noFault_andThen ?_ fun r _ => noFault_next _
  obtain ⟨hDraining, hUnread, -, -, hState⟩ := drainByte_eq_next hDrain
  rw [hState]
  exact noFault_assemble (hInv.drained hDraining hUnread) d.1 t

theorem noFault_pollEmpty (s : State) : NoFault (pollEmpty s) := by
  unfold pollEmpty
  split
  · exact noFault_refused _
  · split
    · exact noFault_next _
    · exact noFault_refused _

theorem noFault_pollLoop {s : State} (hInv : s.BlockInv) (n t : Nat) (ts : List Nat) : NoFault (pollLoop n t ts s) := by
  induction n generalizing s t ts with
  | zero => exact noFault_pollEmpty s
  | succ n ih =>
    unfold pollLoop
    split
    case isTrue => exact noFault_pollEmpty s
    case isFalse =>
      split
      · rename_i w hByte
        have hNext : w.BlockInv := (goesOn_or_pollEnds_of_pollByte hByte).elim (·.blockInv hInv) (·.blockInv hInv)
        split
        · exact noFault_next w
        · exact ih hNext _ _
      · rename_i e hFault
        exact absurd hFault (noFault_pollByte hInv t e)
      · exact noFault_refused _

theorem noFault_exec_asm {s : State} (hInv : s.BlockInv) (b : Byte) (t : Nat) : NoFault (exec (.asm b t) s) := by
  change NoFault (execAsm b t s)
  unfold execAsm
  split
  · exact noFault_refused _
  · exact noFault_andThen (noFault_assemble hInv b t) fun r _ => noFault_next _

theorem noFault_snapHead (s : State) : NoFault (snapHead s) := by
  unfold snapHead
  split
  · exact noFault_next _
  · exact noFault_refused _

theorem noFault_perform {s : State} (hInv : s.BlockInv) (i : Instr) : NoFault (perform i s) := by
  cases i
  case decBadchk f | decMeas20 f | decMeas21 f | decMeas22 f | decErrEe f | decErrHeur f | decDiscard f
      | decodeFrame f =>
    change NoFault (completeRequested f s)
    unfold completeRequested
    split
    · exact noFault_exec_asm hInv (cs f) s.lbt
    · exact noFault_refused _
  case getlasterror | chk | bcd32 | cmdLaserOn | cmdLaserOff | cmdQuickRead | reset => exact noFault_next _
  case rxwrite b =>
    obtain ⟨-, -, ⟨hHead, -⟩, -⟩ := hInv
    change NoFault (exec (.rxwrite b) s)
    rw [exec_rxwrite_of_lt b hHead]
    exact noFault_next _
  case snap | pollStart => exact noFault_andThen (noFault_snapHead s) fun u _ => noFault_next _
  case drain => exact noFault_andThen (noFault_drainByte hInv) fun d _ => noFault_next _
  case asm b t => exact noFault_exec_asm hInv b t
  case pollStep t => exact noFault_pollByte hInv t
  case poll t ts =>
    refine noFault_andThen (noFault_snapHead s) fun u hSnap => ?_
    obtain ⟨-, rfl⟩ := snapHead_eq_next hSnap
    exact noFault_pollLoop (hInv.snapped s.delivered) _ t ts
  case pollEnd => exact noFault_pollEmpty s
  case endPoll x =>
    change NoFault (execEndPoll x s)
    unfold execEndPoll
    split
    · exact noFault_refused _
    · exact noFault_next _

/-! The obligations. -/

/-- Settles O1: after reset the configuration is the default, RING and the region to read are empty, and no poll is in
progress. -/
theorem invariantHoldsAtReset : Obligations.InvariantHoldsAtReset := by
  have hConfig : State.reset.cfg.Valid := by decide
  refine ⟨hConfig, ⟨Memory.wf_reset, nofun⟩, by decide, by decide, by decide, .inr ⟨?_, le_refl _, nofun⟩, by decide⟩
  exact fun i hi => absurd hi (Nat.not_lt_zero i)

/-- Settles O2: what a request can do (`Runs`) keeps the block's part and the byte step's, and moving the byte step on
touches neither. -/
theorem everyStepKeepsTheInvariant : Obligations.EveryStepKeepsTheInvariant := by
  intro s u hInv hStep
  obtain ⟨hBlock, hInPoll⟩ := s.inv_iff.mp hInv
  refine u.inv_iff.mpr ⟨?_, step_keeps_byteStepInPoll hInPoll hStep⟩
  rcases step_eq_next hStep with ⟨-, rfl⟩ | ⟨i, rest, v, -, -, hRuns, rfl⟩
  · exact hBlock
  · exact moveByteStep_blockInv (Runs.blockInv (s := { s with pending := rest }) hBlock hRuns)

/-- Settles O3: a step decodes and runs a request or is refused, and no request faults (`noFault_perform`). -/
theorem noStepFaultsUnderTheInvariant : Obligations.NoStepFaultsUnderTheInvariant := by
  intro s e hInv
  have hBlock := hInv.blockInv
  suffices NoFault (step s) from this e
  unfold step
  split
  · exact noFault_next s
  · split
    · exact noFault_refused _
    · rename_i _ _ rest _ _ i _
      unfold runRequest
      split
      · exact noFault_andThen (noFault_perform (s := { s with pending := rest }) hBlock i) fun u _ => noFault_next _
      · exact noFault_refused _

end Sys2Proof.Machine

/-! Proofs of the remaining ring and poll statements (40_ring.md, 44_poll.md): runs of RXWRITEs and of DRAINs, the byte
step against its parts and against the Receiver, and POLL against its micro-steps. -/

namespace Sys2Proof.Machine

theorem execAll_singleton (i : Instr) (s : State) : execAll [i] s = exec i s := by
  cases h : exec i s <;> simp [execAll, h]

/-! Bytes received one after another (40_ring.md R102). -/

/-- The offset of a cell from HEAD is not one of the next `n`, for `n` below `C`. -/
theorem add_mod_ne_self {c x k : Nat} (hx : x < c) (hPos : 0 < k) (hk : k < c) : (x + k) % c ≠ x := by
  rcases Nat.lt_or_ge (x + k) c with h | h
  · rw [Nat.mod_eq_of_lt h]
    omega
  · rw [Nat.mod_eq_sub_mod h, Nat.mod_eq_of_lt (by omega)]
    omega

theorem nextIndex_add_mod (c : Config) (x k : Nat) : (nextIndex c x + k) % c.capacity = (x + (k + 1)) % c.capacity := by
  rw [nextIndex, Nat.mod_add_mod]
  congr 1
  omega

/-- R102: the RXWRITEs of `bs` write RING, HEAD and the delivery; the cells from HEAD on hold the bytes in order, and
every other cell is as before. -/
theorem execAll_rxwrites {bs : List Byte} {s : State} (hHead : s.head < s.cfg.capacity) :
    ∃ ring d, execAll (bs.map .rxwrite) s =
        .next { s with ring := ring, head := (s.head + bs.length) % s.cfg.capacity, delivered := d } ∧
      (∀ i, (∀ j, j < bs.length → i ≠ (s.head + j) % s.cfg.capacity) → Memory.read ring i = Memory.read s.ring i) ∧
      (bs.length ≤ s.cfg.capacity → ∀ j, j < bs.length →
        Memory.read ring ((s.head + j) % s.cfg.capacity) = bs[j]?) := by
  induction bs generalizing s with
  | nil =>
    refine ⟨s.ring, s.delivered, ?_, fun _ _ => rfl, fun _ j hj => absurd hj (Nat.not_lt_zero j)⟩
    simp only [List.map_nil, execAll, List.length_nil, Nat.add_zero, Nat.mod_eq_of_lt hHead]
  | cons b bs ih =>
    have hNext : nextIndex s.cfg s.head < s.cfg.capacity := Nat.mod_lt _ (by omega)
    obtain ⟨ring, d, hRun, hOthers, hOrder⟩ :=
      ih (s := { s with ring := Memory.write s.ring s.head b, head := nextIndex s.cfg s.head, delivered := .nothing })
        hNext
    simp only [nextIndex_add_mod] at hRun hOthers hOrder
    refine ⟨ring, d, ?_, fun i hi => ?_, fun hLength j hj => ?_⟩
    · rw [List.map_cons, execAll, exec_rxwrite_of_lt b hHead, andThen_next, hRun, List.length_cons]
    · have hFirst : i ≠ s.head := by
        have h0 := hi 0 (Nat.succ_pos _)
        rwa [Nat.add_zero, Nat.mod_eq_of_lt hHead] at h0
      rw [hOthers i fun j hj => hi (j + 1) (Nat.succ_lt_succ hj)]
      exact Memory.read_write_other s.ring s.head i b hFirst
    · rw [List.length_cons] at hLength hj
      cases j with
      | zero =>
        rw [Nat.add_zero, Nat.mod_eq_of_lt hHead, hOthers s.head fun j hj => ?_]
        · exact Memory.read_write_same s.ring s.head b
        · exact (add_mod_ne_self hHead (Nat.succ_pos j) (by omega)).symm
      | succ j => exact hOrder (by omega) j (by omega)

/-- The state after a byte is received (R100). -/
def State.received (s : State) (b : Byte) : State :=
  { s with ring := Memory.write s.ring s.head b, head := nextIndex s.cfg s.head, delivered := .nothing }

theorem exec_rxwrite_received {b : Byte} {s : State} (hHead : s.head < s.cfg.capacity) :
    exec (.rxwrite b) s = .next (s.received b) :=
  exec_rxwrite_of_lt b hHead

/-! AVAIL (10_state.md R31, 44_poll.md R182). -/

/-- R31: AVAIL in the integers. -/
theorem indexDistance_eq {c : Config} {a b : Nat} (ha : a < c.capacity) (hb : b < c.capacity) :
    (indexDistance c a b : Int) = ((a : Int) - b) % c.capacity := by
  rw [indexDistance, Nat.mod_eq_of_lt ha, Nat.mod_eq_of_lt hb, Int.natCast_emod, Int.natCast_add, Int.natCast_sub hb.le,
    ← Int.add_emod_right ((a : Int) - b) c.capacity]
  congr 1
  omega

theorem avail_eq {s : State} (hInv : s.BlockInv) (hDraining : s.phase = .draining) :
    (avail s : Int) = ((s.hsnap : Int) - s.tail) % s.cfg.capacity := by
  obtain ⟨-, -, ⟨-, hTail, hHsnap⟩, -⟩ := hInv
  exact indexDistance_eq (hHsnap hDraining) hTail

/-- R31: a whole number, 0 only where the region is drained. -/
theorem avail_eq_ite {s : State} (hInv : s.BlockInv) (hDraining : s.phase = .draining) :
    avail s = if s.tail ≤ s.hsnap then s.hsnap - s.tail else s.hsnap + s.cfg.capacity - s.tail := by
  obtain ⟨-, -, ⟨-, hTail, hHsnap⟩, -⟩ := hInv
  have hIndex := hHsnap hDraining
  rw [avail, indexDistance, Nat.mod_eq_of_lt hIndex, Nat.mod_eq_of_lt hTail]
  split
  · rw [Nat.mod_eq_sub_mod (by omega), Nat.mod_eq_of_lt (by omega)]
    omega
  · rw [Nat.mod_eq_of_lt (by omega)]
    omega

/-- R182: a byte taken lowers AVAIL by one. -/
theorem avail_drained {s : State} (hInv : s.BlockInv) (hDraining : s.phase = .draining) (hUnread : s.tail ≠ s.hsnap) :
    avail s.drained + 1 = avail s := by
  rw [avail_eq_ite hInv hDraining, avail_eq_ite (hInv.drained hDraining hUnread) hDraining]
  obtain ⟨-, -, ⟨-, hTail, hHsnap⟩, -⟩ := hInv
  have hIndex := hHsnap hDraining
  have hNext := nextIndex_eq hTail
  change (if nextIndex s.cfg s.tail ≤ s.hsnap then s.hsnap - nextIndex s.cfg s.tail
    else s.hsnap + s.cfg.capacity - nextIndex s.cfg s.tail) + 1 = _
  split at hNext <;> split <;> split <;> omega

theorem afterByte_tail {s : State} {b : Byte} {t : Nat} {r : Option Result × State} (h : ByteTaken s b t r) :
    (afterByte r).tail = s.drained.tail := by
  have hFrame := congrArg State.tail h.snd_eq
  obtain ⟨x, a⟩ := r
  rcases x with _ | mm | code <;> exact hFrame

theorem avail_afterByte {s : State} {b : Byte} {t : Nat} {r : Option Result × State} (h : ByteTaken s b t r) :
    avail (afterByte r) = avail s.drained := by
  have hKept := keptByPoll_afterByte h
  rw [avail, avail, hKept.cfg, hKept.hsnap, afterByte_tail h]
  rfl

/-- R38: under the invariant a byte step that is enabled has a next state. -/
theorem State.BlockInv.byteTaken {s : State} (h : s.BlockInv) (hDraining : s.phase = .draining)
    (hUnread : s.tail ≠ s.hsnap) (t : Nat) : ∃ b r, ByteTaken s b t r := by
  obtain ⟨b, hByte⟩ := h.byte_at_tail hDraining hUnread
  obtain ⟨-, -, ⟨-, hTail, -⟩, ⟨hPos, -⟩, -⟩ := h
  obtain ⟨r, hAssembled⟩ := assemble_completes (b := b) (t := t) (s := s.drained) hPos
  exact ⟨b, r, hDraining, hUnread, hTail, hByte, hAssembled⟩

/-- R127: a byte step with the same byte and the same assembler, in a state that differs elsewhere. -/
theorem ByteTaken.transfer {s e : State} {b : Byte} {t : Nat} {r : Option Result × State} (h : ByteTaken s b t r)
    (hSame : e.withAssembler s = e) (hCfg : e.cfg = s.cfg) (hDraining : e.phase = .draining)
    (hUnread : e.tail ≠ e.hsnap) (hRange : e.tail < e.cfg.capacity) (hByte : Memory.read e.ring e.tail = some b) :
    ByteTaken e b t (r.1, e.drained.withAssembler r.2) := by
  refine ⟨hDraining, hUnread, hRange, hByte, ?_⟩
  have hAssembled := assemble_withAssembler (e := e.drained) (s := s.drained) hCfg h.assembled
  have hDrained : e.drained.withAssembler s.drained = e.drained := congrArg State.drained hSame
  rwa [hDrained] at hAssembled

/-! POLL against its micro-steps (R181). -/

theorem pollLoop_of_goesOn {s u : State} {t : Nat} (hUnread : s.tail ≠ s.hsnap) (hStep : pollByte t s = .next u)
    (hDraining : u.phase = .draining) (n : Nat) (ts : List Nat) :
    pollLoop (n + 1) t ts s = pollLoop n (ts.headD t) ts.tail u := by
  rw [pollLoop, if_neg (mt (isEmpty_iff s).mp hUnread), hStep]
  simp only [hDraining]

theorem pollLoop_of_ended {s u : State} {t : Nat} (hUnread : s.tail ≠ s.hsnap) (hStep : pollByte t s = .next u)
    (hIdle : u.phase = .idle) (n : Nat) (ts : List Nat) : pollLoop (n + 1) t ts s = .next u := by
  rw [pollLoop, if_neg (mt (isEmpty_iff s).mp hUnread), hStep]
  simp only [hIdle]

/-- The byte step writes the delivery without reading it (entry 4). -/
theorem pollByte_with_delivered {s : State} (hInv : s.BlockInv) (hDraining : s.phase = .draining)
    (hUnread : s.tail ≠ s.hsnap) (t : Nat) (d : Delivered) : pollByte t { s with delivered := d } = pollByte t s := by
  obtain ⟨b, ⟨x, a⟩, hTaken⟩ := hInv.byteTaken hDraining hUnread t
  obtain ⟨a', rfl⟩ : ∃ a', a = s.drained.withAssembler a' := ⟨a, hTaken.snd_eq⟩
  have hOther := hTaken.transfer (e := { s with delivered := d }) rfl rfl hDraining hUnread hTaken.inRange hTaken.byte
  rw [pollByte_of_byteTaken hTaken, pollByte_of_byteTaken hOther]
  rcases x with _ | mm | code <;> rfl

theorem pollLoop_with_delivered {s : State} (hInv : s.BlockInv) (hDraining : s.phase = .draining) (n t : Nat)
    (ts : List Nat) (d : Delivered) : pollLoop n t ts { s with delivered := d } = pollLoop n t ts s := by
  by_cases hEmpty : s.tail = s.hsnap
  · rw [pollLoop_of_drained hEmpty, pollLoop_of_drained (s := { s with delivered := d }) hEmpty,
      pollEmpty_of_drained hDraining hEmpty, pollEmpty_of_drained (s := { s with delivered := d }) hDraining hEmpty]
    rfl
  · cases n with
    | zero =>
      exact (pollEmpty_of_not_drained (s := { s with delivered := d }) hDraining hEmpty).trans
        (pollEmpty_of_not_drained hDraining hEmpty).symm
    | succ n =>
      unfold pollLoop
      rw [pollByte_with_delivered hInv hDraining hEmpty]
      rfl

/-- The POLL.STEPs of the first `k` clock samples. -/
abbrev pollSteps (k t : Nat) (ts : List Nat) : List Instr := (pollSamples k t ts).map .pollStep

/-- R181, R182: under the invariant the loop ends, and is at most AVAIL byte steps and, unless the last returned a result,
POLL.END. -/
theorem pollLoop_eq_microSteps {n t : Nat} {ts : List Nat} {s : State} (hInv : s.BlockInv)
    (hDraining : s.phase = .draining) (hAvail : avail s = n) :
    ∃ k u, k ≤ n ∧ pollLoop n t ts s = .next u ∧
      (execAll (pollSteps k t ts ++ [.pollEnd]) s = .next u ∨ (0 < k ∧ execAll (pollSteps k t ts) s = .next u)) := by
  induction n generalizing s t ts with
  | zero =>
    have hEmpty : s.tail = s.hsnap := by
      have hZero := avail_eq_ite hInv hDraining
      obtain ⟨-, -, ⟨-, hTail, -⟩, -⟩ := hInv
      split at hZero <;> omega
    have hEnd := pollEmpty_of_drained hDraining hEmpty
    exact ⟨0, s.endedEmpty, le_refl _, hEnd, .inl ((execAll_singleton _ s).trans hEnd)⟩
  | succ n ih =>
    have hUnread : s.tail ≠ s.hsnap := by
      intro hEmpty
      have hZero := avail_eq_ite hInv hDraining
      split at hZero <;> omega
    obtain ⟨b, ⟨x, a⟩, hByte⟩ := hInv.byteTaken hDraining hUnread t
    have hStep := pollByte_of_byteTaken hByte
    cases x with
    | none =>
      have hOn : GoesOn s (afterByte (none, a)) := ⟨b, t, a, hByte, rfl⟩
      have hLower := avail_drained hInv hDraining hUnread
      rw [← avail_afterByte hByte, hAvail] at hLower
      obtain ⟨k, u, hk, hRest, hSteps⟩ :=
        ih (t := ts.headD t) (ts := ts.tail) (hOn.blockInv hInv) hOn.draining (Nat.succ_injective hLower)
      have hLoop := pollLoop_of_goesOn hUnread hStep hOn.draining n ts
      have hFirst : ∀ is, execAll (.pollStep t :: is) s = execAll is (afterByte (none, a)) := fun is => by
        rw [execAll, exec_pollStep, hStep, andThen_next]
      refine ⟨k + 1, u, Nat.succ_le_succ hk, hLoop.trans hRest, ?_⟩
      rcases hSteps with hSteps | ⟨-, hSteps⟩
      · exact .inl ((hFirst _).trans hSteps)
      · exact .inr ⟨Nat.succ_pos k, (hFirst _).trans hSteps⟩
    | some x =>
      have hEnd : PollEnds s (afterByte (some x, a)) := .result hByte
      have hLoop := pollLoop_of_ended hUnread hStep hEnd.phase n ts
      exact ⟨1, _, Nat.succ_le_succ (Nat.zero_le n), hLoop, .inr ⟨Nat.one_pos, (execAll_singleton _ s).trans hStep⟩⟩

/-! The obligations. -/

/-- Settles O21, by `execAll_rxwrites`. -/
theorem receivedBytesLieInOrder : Obligations.ReceivedBytesLieInOrder := by
  intro bs s hHead
  obtain ⟨ring, d, hRun, -, hOrder⟩ := execAll_rxwrites (bs := bs) hHead
  exact ⟨_, hRun, rfl, hOrder, rfl, rfl, rfl, rfl, rfl⟩

/-- Settles O29: HEAD goes once round to where it was, which is TAIL, and a poll of an empty region drains nothing. -/
theorem aWholeRegionOfUnreadBytesIsLost : Obligations.AWholeRegionOfUnreadBytesIsLost := by
  intro s bs t ts hHead hEmpty hIdle hLength
  obtain ⟨ring, d, hRun, -, -⟩ := execAll_rxwrites (bs := bs) hHead
  rw [hLength, Nat.add_mod_right, Nat.mod_eq_of_lt hHead] at hRun
  obtain ⟨v, hPoll, hPort, hFrame⟩ :=
    pollOfAnEmptyRegionIsNoData { s with ring := ring, head := s.head, delivered := d } t ts hIdle hEmpty.symm
  refine ⟨_, v, hRun, hEmpty, hPoll, hPort, ?_⟩
  rw [hFrame]
  exact ⟨rfl, rfl, rfl⟩

/-- Settles O27: a read after the write of the cell gives the new byte; the DRAIN before it gives the one stored. -/
theorem raceGivesTheOldOrTheNewByte : Obligations.RaceGivesTheOldOrTheNewByte := by
  intro s old new hDraining hUnread hRace hTail hOld
  have hHead : s.head < s.cfg.capacity := hRace ▸ hTail
  have hNew : Memory.read (Memory.write s.ring s.head new) s.tail = some new := by
    rw [← hRace, Memory.read_write_same]
  have hWriteFirst : execAll [.rxwrite new, .drain] s = .next (deliver (.byte new) (s.received new).drained) := by
    rw [execAll, exec_rxwrite_received hHead, andThen_next, execAll_singleton]
    exact exec_drain_of_readable (s := s.received new) hDraining hUnread hTail hNew
  exact ⟨⟨_, hWriteFirst, rfl⟩,
    ⟨_, _, exec_drain_of_readable hDraining hUnread hTail hOld, rfl, exec_rxwrite_received hHead⟩⟩

/-- Settles O49: the byte step is the DRAIN and the ASM, which does not see what was delivered between them
(`assemble_withAssembler`). -/
theorem pollStepIsDrainThenAsm : Obligations.PollStepIsDrainThenAsm := by
  intro s b t hDraining hUnread hTail hByte hPos
  obtain ⟨⟨x, a⟩, hAssembled⟩ := assemble_completes (b := b) (t := t) (s := s.drained) hPos
  have hTaken : ByteTaken s b t (x, a) := ⟨hDraining, hUnread, hTail, hByte, hAssembled⟩
  obtain ⟨a', rfl⟩ : ∃ a', a = s.drained.withAssembler a' := ⟨a, hTaken.snd_eq⟩
  have hPart : assemble b t (deliver (.byte b) s.drained) = _ :=
    assemble_withAssembler (e := deliver (.byte b) s.drained) rfl hAssembled
  refine ⟨deliver (.byte b) s.drained, deliver (.frameResult x) ((deliver (.byte b) s.drained).withAssembler a'), x, _,
    exec_drain_of_readable hDraining hUnread hTail hByte, rfl, ?asm, rfl, pollByte_of_byteTaken hTaken, ?ending⟩
  case asm =>
    rw [exec_asm_of_draining (s := deliver (.byte b) s.drained) hDraining, hPart, andThen_next]
    rfl
  case ending =>
    cases x with
    | none => rfl
    | some x =>
      have hEnd := exec_endPoll_of_draining
        (s := deliver (.frameResult (some x)) ((deliver (.byte b) s.drained).withAssembler a')) hDraining x
      refine Eq.trans hEnd ?_
      cases x <;> rfl

/-- Settles O28: the byte at TAIL is not the one written, and ASM reads no register of the Receiver
(`ByteTaken.transfer`). -/
theorem receptionCommutesWithTheByteStep : Obligations.ReceptionCommutesWithTheByteStep := by
  intro s b t hInv hDraining hUnread hApart
  have hBlock := hInv.blockInv
  have ⟨_, _, ⟨hHead, _⟩, _⟩ := hBlock
  obtain ⟨c, ⟨x, a⟩, hTaken⟩ := hBlock.byteTaken hDraining hUnread t
  obtain ⟨a', rfl⟩ : ∃ a', a = s.drained.withAssembler a' := ⟨a, hTaken.snd_eq⟩
  have hSameByte : Memory.read (Memory.write s.ring s.head b) s.tail = some c :=
    (Memory.read_write_other s.ring s.head s.tail b hApart.symm).trans hTaken.byte
  have hAfterWrite := hTaken.transfer (e := s.received b) rfl rfl hDraining hUnread hTaken.inRange hSameByte
  have hKept := keptByPoll_afterByte hTaken
  have hHead' : (afterByte (x, s.drained.withAssembler a')).head <
      (afterByte (x, s.drained.withAssembler a')).cfg.capacity := by
    rw [hKept.head, hKept.cfg]
    exact hHead
  have hWriteFirst : execAll [.rxwrite b, .pollStep t] s =
      .next (afterByte (x, (s.received b).drained.withAssembler (s.drained.withAssembler a'))) := by
    rw [execAll, exec_rxwrite_received hHead, andThen_next, execAll_singleton]
    exact pollByte_of_byteTaken hAfterWrite
  have hStepFirst : execAll [.pollStep t, .rxwrite b] s =
      .next ((afterByte (x, s.drained.withAssembler a')).received b) := by
    rw [execAll, exec_pollStep, pollByte_of_byteTaken hTaken, andThen_next, execAll_singleton]
    exact exec_rxwrite_received hHead'
  refine ⟨_, _, hWriteFirst, hStepFirst, ?_⟩
  rcases x with _ | mm | code <;> rfl

/-- Settles O53: `avail_drained`, and RXWRITE writes neither HSNAP nor TAIL. -/
theorem eachByteStepLowersAvailByOne : Obligations.EachByteStepLowersAvailByOne := by
  intro s b t hInv hDraining hUnread
  have hBlock := hInv.blockInv
  obtain ⟨c, r, hByte⟩ := hBlock.byteTaken hDraining hUnread t
  have hKept := keptByPoll_afterByte hByte
  refine ⟨⟨_, pollByte_of_byteTaken hByte, ?_⟩, ?_⟩
  · have hLower := avail_drained hBlock hDraining hUnread
    have hDrained := avail_eq (hBlock.drained hDraining hUnread) hDraining
    rw [hKept.hsnap, afterByte_tail hByte, ← avail_eq hBlock hDraining, ← hLower]
    change ((s.drained.hsnap : Int) - s.drained.tail) % s.drained.cfg.capacity + 1 = _
    rw [← hDrained]
    rfl
  · obtain ⟨-, -, ⟨hHead, -⟩, -⟩ := hBlock
    exact ⟨_, exec_rxwrite_of_lt b hHead, rfl⟩

/-- Settles O55: POLL is POLL.START and then the loop (`pollLoop_eq_microSteps`). -/
theorem pollIsItsMicroSteps : Obligations.PollIsItsMicroSteps := by
  intro s t ts hInv hIdle
  have hSnapped := hInv.blockInv.snapped s.delivered
  have hStarted := hInv.blockInv.snapped .nothing
  obtain ⟨k, u, hk, hLoop, hSteps⟩ := pollLoop_eq_microSteps (t := t) (ts := ts) hStarted rfl rfl
  have hStart : ∀ is, execAll (.pollStart :: is) s =
      execAll is { s with hsnap := s.head, phase := .draining, delivered := .nothing } := fun is => by
    rw [execAll, exec_pollStart_eq_snap, exec_snap_of_idle hIdle, andThen_next]
  refine ⟨k, u, ?_, ?_, hSteps.imp (hStart _).trans fun ⟨hk, hSteps⟩ => ⟨hk, (hStart _).trans hSteps⟩⟩
  · rw [exec_poll_of_idle hIdle, ← hLoop]
    exact (pollLoop_with_delivered hSnapped rfl _ t ts .nothing).symm
  · have hAvail := avail_eq hStarted rfl
    change _ = ((s.head : Int) - s.tail) % s.cfg.capacity at hAvail
    omega

/-- Settles O54: the loop ends under the invariant (`pollLoop_eq_microSteps`), in one of the ends of `PollEnds`. -/
theorem everyPollEnds : Obligations.EveryPollEnds := by
  intro s t ts hInv hIdle
  have hSnapped := hInv.blockInv.snapped s.delivered
  obtain ⟨-, u, -, hLoop, -⟩ := pollLoop_eq_microSteps (t := t) (ts := ts) hSnapped rfl rfl
  have hPoll := (exec_poll_of_idle hIdle t ts).trans hLoop
  obtain ⟨-, v, hOn, hEnd⟩ := exec_poll_eq_next hPoll
  obtain ⟨x, hPort, -, hDrained, hPos⟩ := hEnd.port
  have hKept := keptByPoll_of_exec_poll hPoll
  refine ⟨u, portOf x, hPoll, hEnd.phase, hEnd.delivered, hPort, hKept.hsnap, hKept.head, hKept.ring, fun hNoData => ?_,
    fun hResult => ?_⟩
  · cases x with
    | none => exact (hDrained rfl).trans (goesOnTo_kept hOn).1.hsnap
    | some x => exact absurd hNoData (resultValue_ne_noData x)
  · refine hPos fun hNone => hResult ?_
    rw [hNone]
    rfl

theorem State.with_tail_self (s : State) {x : Nat} (h : s.tail = x) : { s with tail := x } = s := by
  subst h
  rfl

/-- R107: the DRAINs of a region of `n` bytes. -/
theorem drainAll_region {n : Nat} {s : State} (hInv : s.BlockInv) (hDraining : s.phase = .draining)
    (hn : n < s.cfg.capacity) (hEnd : (s.tail + n) % s.cfg.capacity = s.hsnap) :
    ∃ ds, drainAll n s =
        .next (ds, { s with tail := s.hsnap, delivered := if n = 0 then s.delivered else ds.getLastD .nothing }) ∧
      ds.length = n ∧
      ∀ k, k < n → ∃ b, Memory.read s.ring ((s.tail + k) % s.cfg.capacity) = some b ∧ ds[k]? = some (.byte b) := by
  induction n generalizing s with
  | zero =>
    obtain ⟨-, -, ⟨-, hTail, -⟩, -⟩ := hInv
    rw [Nat.add_zero, Nat.mod_eq_of_lt hTail] at hEnd
    refine ⟨[], ?_, rfl, fun k hk => absurd hk (Nat.not_lt_zero k)⟩
    rw [if_pos rfl]
    exact congrArg (fun u => Host.Outcome.next ([], u)) (s.with_tail_self hEnd).symm
  | succ n ih =>
    have ⟨_, _, ⟨_, hTail, _⟩, _⟩ := hInv
    have hUnread : s.tail ≠ s.hsnap := hEnd ▸ (add_mod_ne_self hTail (Nat.succ_pos n) hn).symm
    obtain ⟨b, hByte⟩ := hInv.byte_at_tail hDraining hUnread
    have hStep := exec_drain_of_readable hDraining hUnread hTail hByte
    have hNext : (deliver (.byte b) s.drained).BlockInv := hInv.drained hDraining hUnread
    obtain ⟨ds, hRest, hLength, hBytes⟩ :=
      ih hNext hDraining (Nat.lt_of_succ_lt hn) ((nextIndex_add_mod s.cfg s.tail n).trans hEnd)
    refine ⟨.byte b :: ds, ?_, congrArg (· + 1) hLength, fun k hk => ?_⟩
    · rw [drainAll, hStep, andThen_next]
      change andThen (drainAll n (deliver (.byte b) s.drained)) _ = _
      rw [hRest, andThen_next, if_neg (Nat.succ_ne_zero n)]
      have hLast : (if n = 0 then (deliver (.byte b) s.drained).delivered else ds.getLastD .nothing) =
          (Delivered.byte b :: ds).getLastD .nothing := by
        cases ds with
        | nil =>
          have hNone : n = 0 := hLength.symm
          rw [if_pos hNone]
          rfl
        | cons d ds =>
          have hSome : n ≠ 0 := hLength ▸ Nat.succ_ne_zero ds.length
          rw [if_neg hSome]
          rfl
      rw [hLast]
      rfl
    · cases k with
      | zero =>
        refine ⟨b, ?_, rfl⟩
        rw [Nat.add_zero, Nat.mod_eq_of_lt hTail]
        exact hByte
      | succ k =>
        obtain ⟨c, hRead, hGet⟩ := hBytes k (by omega)
        exact ⟨c, (congrArg (Memory.read s.ring) (nextIndex_add_mod s.cfg s.tail k)).symm.trans hRead, hGet⟩

/-- Settles O26, by `drainAll_region`: each DRAIN takes the byte at TAIL, and the rest find the region one byte shorter. -/
theorem drainsYieldTheUnreadBytesInOrder : Obligations.DrainsYieldTheUnreadBytesInOrder := by
  intro s n hInv hDraining hn hEnd
  exact drainAll_region hInv.blockInv hDraining hn hEnd

end Sys2Proof.Machine

/-! Unspecified contents never reach a result (10_state.md R38): two states that agree on everything the block may depend
on take every operation to the same outcome, up to that agreement. One lemma per shared operation, put together by
`related_andThen`. -/

namespace Sys2Proof.Machine

/-! Agreement, field by field. -/

/-- `State.Agree` with a name for each register. -/
structure Agrees (s t : State) : Prop where
  cfg : s.cfg = t.cfg
  ring : s.ring = t.ring
  head : s.head = t.head
  tail : s.tail = t.tail
  pos : s.pos = t.pos
  phase : s.phase = t.phase
  lerrV : s.lerrV = t.lerrV
  resKind : s.resKind = t.resKind
  pending : s.pending = t.pending
  byteStep : s.byteStep = t.byteStep
  delivered : s.delivered = t.delivered
  fbuf : ∀ i : Fin 13, i.val < s.pos.toNat → s.fbuf[i] = t.fbuf[i]
  lbt : s.pos ≠ 0 → s.lbt = t.lbt
  hsnap : s.phase = .draining → s.hsnap = t.hsnap
  lerrCode : s.lerrV = true → s.lerrCode = t.lerrCode
  resMm : s.resKind = 1 → s.resMm = t.resMm
  resCode : s.resKind = 2 → s.resCode = t.resCode

theorem agree_iff_agrees (s t : State) : s.Agree t ↔ Agrees s t := by
  constructor
  · rintro ⟨h1, h2, h3, h4, h5, h6, h7, h8, h9, h10, h11, h12, h13, h14, h15, h16, h17⟩
    exact ⟨h1, h2, h3, h4, h5, h6, h7, h8, h9, h10, h11, h12, h13, h14, h15, h16, h17⟩
  · rintro ⟨h1, h2, h3, h4, h5, h6, h7, h8, h9, h10, h11, h12, h13, h14, h15, h16, h17⟩
    exact ⟨h1, h2, h3, h4, h5, h6, h7, h8, h9, h10, h11, h12, h13, h14, h15, h16, h17⟩

/-- Two outcomes are of the same kind, with the same reason to stop or with values that are related. -/
inductive Related {α β : Type} (R : α → β → Prop) : Res α → Res β → Prop
  | next {a : α} {b : β} (h : R a b) : Related R (.next a) (.next b)
  | fault (e : Fault) : Related R (.fault e) (.fault e)
  | refused (e : Refusal) : Related R (.refused e) (.refused e)

theorem related_andThen {α β α' β' : Type} {R : α → β → Prop} {R' : α' → β' → Prop} {o : Res α} {o' : Res β}
    {k : α → Res α'} {k' : β → Res β'} (h : Related R o o') (hk : ∀ a b, R a b → Related R' (k a) (k' b)) :
    Related R' (andThen o k) (andThen o' k') := by
  cases h with
  | next h => exact hk _ _ h
  | fault e => exact .fault e
  | refused e => exact .refused e

theorem outcomesAgree_of_related {o o' : Res State} (h : Related Agrees o o') : outcomesAgree o o' := by
  cases h with
  | next h => exact (agree_iff_agrees _ _).mpr h
  | fault e => rfl
  | refused e => rfl

/-! The ring. -/

theorem Agrees.deliver {s t : State} (h : Agrees s t) (d : Delivered) : Agrees (deliver d s) (deliver d t) :=
  { h with delivered := rfl }

theorem Agrees.isEmpty {s t : State} (h : Agrees s t) (hDraining : s.phase = .draining) : isEmpty s = isEmpty t := by
  rw [Machine.isEmpty, Machine.isEmpty, h.tail, h.hsnap hDraining]

theorem Agrees.avail {s t : State} (h : Agrees s t) (hDraining : s.phase = .draining) : avail s = avail t := by
  rw [Machine.avail, Machine.avail, h.cfg, h.tail, h.hsnap hDraining]

theorem Agrees.storeReceived {s t : State} (h : Agrees s t) (b : Byte) :
    Related Agrees (storeReceived b s) (storeReceived b t) := by
  by_cases hHead : s.head < s.cfg.capacity
  · have hHead' : t.head < t.cfg.capacity := h.head ▸ h.cfg ▸ hHead
    rw [storeReceived_of_lt b s hHead, storeReceived_of_lt b t hHead']
    exact .next { h with ring := by rw [h.ring, h.head], head := by rw [h.cfg, h.head] }
  · have hHead' : ¬ t.head < t.cfg.capacity := h.head ▸ h.cfg ▸ hHead
    simp only [Machine.storeReceived, ringWrite, if_neg hHead, if_neg hHead', andThen_fault]
    exact .fault _

theorem Agrees.snapHead {s t : State} (h : Agrees s t) : Related Agrees (snapHead s) (snapHead t) := by
  cases hPhase : s.phase with
  | idle =>
    rw [snapHead_of_idle hPhase, snapHead_of_idle (h.phase ▸ hPhase)]
    exact .next { h with phase := rfl, hsnap := fun _ => h.head }
  | draining =>
    rw [snapHead_of_draining hPhase, snapHead_of_draining (h.phase ▸ hPhase)]
    exact .refused _

theorem drainByte_of_unread {s : State} (hDraining : s.phase = .draining) (hUnread : s.tail ≠ s.hsnap) :
    drainByte s = andThen (ringRead s s.tail) (fun b => .next (b, s.drained)) := by
  simp only [drainByte, hDraining, if_neg (mt (isEmpty_iff s).mp hUnread), State.drained]

/-- A byte drained from each of two states is the same byte, and leaves states that agree. -/
def SameByte (d e : Byte × State) : Prop := d.1 = e.1 ∧ Agrees d.2 e.2

theorem Agrees.drainByte {s t : State} (h : Agrees s t) : Related SameByte (drainByte s) (drainByte t) := by
  cases hPhase : s.phase with
  | idle =>
    rw [drainByte_of_idle hPhase, drainByte_of_idle (h.phase ▸ hPhase)]
    exact .refused _
  | draining =>
    have hPhase' : t.phase = .draining := h.phase ▸ hPhase
    have hHsnap := h.hsnap hPhase
    by_cases hEmpty : s.tail = s.hsnap
    · rw [drainByte_of_drained hPhase hEmpty, drainByte_of_drained hPhase' (h.tail ▸ hHsnap ▸ hEmpty)]
      exact .refused _
    · have hRead : ringRead t t.tail = ringRead s s.tail := by rw [ringRead, ringRead, h.cfg, h.ring, h.tail]
      rw [drainByte_of_unread hPhase hEmpty, drainByte_of_unread hPhase' (h.tail ▸ hHsnap ▸ hEmpty), hRead]
      have hDrained : Agrees s.drained t.drained :=
        { h with tail := congrArg₂ nextIndex h.cfg h.tail }
      cases ringRead s s.tail with
      | next b => exact .next ⟨rfl, hDrained⟩
      | fault e => exact .fault e
      | refused e => exact .refused e

/-! The assembler. -/

/-- The optional results are the same, and leave states that agree. -/
def SameResult (r q : Option Result × State) : Prop := r.1 = q.1 ∧ Agrees r.2 q.2

theorem Agrees.decodeFrame {s t : State} (h : Agrees s t) (f : Frame) :
    SameResult (decodeFrame f s) (decodeFrame f t) := by
  unfold Machine.decodeFrame
  split
  · split
    · exact ⟨rfl, { h with lerrV := rfl, lerrCode := nofun }⟩
    · split
      · exact ⟨rfl, { h with lerrV := rfl, lerrCode := fun _ => rfl }⟩
      · exact ⟨rfl, h⟩
  · exact ⟨rfl, h⟩

theorem Agrees.isStale {s t : State} (h : Agrees s t) (τ : Nat) :
    isStale s.cfg s.pos s.lbt τ = isStale t.cfg t.pos t.lbt τ := by
  rw [← h.cfg, ← h.pos]
  by_cases hPos : s.pos = 0
  · rw [hPos]
    rfl
  · rw [h.lbt hPos]

/-- R121, R129: LBT is read in Accumulating only, and after the sample is stamped it is the same. -/
theorem Agrees.stampTime_dropStale {s t : State} (h : Agrees s t) (τ : Nat) :
    Agrees (stampTime τ (dropStale τ s)) (stampTime τ (dropStale τ t)) ∧
      (stampTime τ (dropStale τ s)).lbt = (stampTime τ (dropStale τ t)).lbt := by
  have hSample : sampleTime s.cfg τ = sampleTime t.cfg τ := by rw [h.cfg]
  have hDropped : Agrees (dropStale τ s) (dropStale τ t) := by
    rw [dropStale, dropStale, ← h.isStale τ]
    split
    · exact { h with pos := rfl, fbuf := fun i hi => absurd hi (Nat.not_lt_zero _), lbt := fun hPos => absurd rfl hPos }
    · exact h
  have hStamped : (stampTime τ (dropStale τ s)).lbt = (stampTime τ (dropStale τ t)).lbt := by
    rw [stampTime_lbt, stampTime_lbt, dropStale_cfg, dropStale_cfg, hSample]
  exact ⟨{ hDropped with lbt := fun _ => hStamped }, hStamped⟩

/-- R124: FBUF agrees one byte further. -/
theorem Agrees.storeByte {s t : State} (h : Agrees s t) (hLbt : s.lbt = t.lbt) (b : Byte) :
    Related Agrees (storeByte b s) (storeByte b t) := by
  by_cases hPos : s.pos.toNat < 13
  · have hPos' : t.pos.toNat < 13 := h.pos ▸ hPos
    rw [storeByte_of_lt b s hPos, storeByte_of_lt b t hPos']
    refine .next { h with pos := congrArg (· + 1) h.pos, fbuf := fun i hi => ?_, lbt := fun _ => hLbt }
    have hStored : i.val < s.pos.toNat + 1 := by
      have hNext : (s.pos + 1).toNat = s.pos.toNat + 1 := by bv_omega
      exact hNext ▸ hi
    change (s.fbuf.set s.pos.toNat b hPos)[i.val] = (t.fbuf.set t.pos.toNat b hPos')[i.val]
    simp only [Vector.getElem_set, ← h.pos]
    split
    · rfl
    · exact h.fbuf i (by omega)
  · have hPos' : ¬ t.pos.toNat < 13 := h.pos ▸ hPos
    simp only [Machine.storeByte, dif_neg hPos, dif_neg hPos']
    exact .fault _

/-- R125: a full FBUF agrees in every byte. -/
theorem Agrees.completeFrame {s t : State} (h : Agrees s t) : SameResult (completeFrame s) (completeFrame t) := by
  by_cases hFull : s.pos = 13
  · have hFrame : t.fbuf = s.fbuf := Vector.ext fun i hi => (h.fbuf ⟨i, hi⟩ (by rw [hFull]; exact hi)).symm
    rw [completeFrame_of_full hFull, completeFrame_of_full (h.pos ▸ hFull), hFrame]
    obtain ⟨hResult, hDecoded⟩ := h.decodeFrame s.fbuf
    exact ⟨hResult, { hDecoded with
      pos := rfl, fbuf := fun i hi => absurd hi (Nat.not_lt_zero _), lbt := fun hPos => absurd rfl hPos }⟩
  · rw [completeFrame_of_not_full hFull, completeFrame_of_not_full (h.pos ▸ hFull)]
    exact ⟨rfl, h⟩

theorem Agrees.assemble {s t : State} (h : Agrees s t) (b : Byte) (τ : Nat) :
    Related SameResult (assemble b τ s) (assemble b τ t) := by
  obtain ⟨hStamped, hLbt⟩ := h.stampTime_dropStale τ
  unfold Machine.assemble
  rw [← hStamped.pos]
  split
  · exact .next ⟨rfl, hStamped⟩
  · exact related_andThen (hStamped.storeByte hLbt b) fun u v huv => .next huv.completeFrame

theorem Agrees.exec_asm {s t : State} (h : Agrees s t) (b : Byte) (τ : Nat) :
    Related Agrees (exec (.asm b τ) s) (exec (.asm b τ) t) := by
  change Related Agrees (execAsm b τ s) (execAsm b τ t)
  unfold execAsm
  rw [← h.phase]
  split
  · exact .refused _
  · refine related_andThen (h.assemble b τ) fun r q ⟨hResult, hState⟩ => ?_
    rw [hResult]
    exact .next (hState.deliver _)

/-! The poll. -/

theorem Agrees.finishPoll {s t : State} (h : Agrees s t) (x : Result) : Agrees (finishPoll x s) (finishPoll x t) := by
  cases x with
  | measurement mm =>
    exact { h with
      resKind := rfl, resMm := fun _ => rfl, resCode := fun hKind => absurd hKind (by decide : (1 : BitVec 2) ≠ 2),
      phase := rfl, hsnap := nofun, delivered := rfl }
  | errorReport code =>
    exact { h with
      resKind := rfl, resMm := fun hKind => absurd hKind (by decide : (2 : BitVec 2) ≠ 1), resCode := fun _ => rfl,
      phase := rfl, hsnap := nofun, delivered := rfl }

theorem Agrees.endedEmpty {s t : State} (h : Agrees s t) : Agrees s.endedEmpty t.endedEmpty :=
  { h with
    resKind := rfl, resMm := fun hKind => absurd hKind (by decide : (0 : BitVec 2) ≠ 1),
    resCode := fun hKind => absurd hKind (by decide : (0 : BitVec 2) ≠ 2),
    phase := rfl, hsnap := nofun, delivered := rfl }

theorem Agrees.pollEmpty {s t : State} (h : Agrees s t) : Related Agrees (pollEmpty s) (pollEmpty t) := by
  cases hPhase : s.phase with
  | idle =>
    rw [pollEmpty_of_idle hPhase, pollEmpty_of_idle (h.phase ▸ hPhase)]
    exact .refused _
  | draining =>
    have hPhase' : t.phase = .draining := h.phase ▸ hPhase
    have hHsnap := h.hsnap hPhase
    by_cases hEmpty : s.tail = s.hsnap
    · rw [pollEmpty_of_drained hPhase hEmpty, pollEmpty_of_drained hPhase' (h.tail ▸ hHsnap ▸ hEmpty)]
      exact .next h.endedEmpty
    · rw [pollEmpty_of_not_drained hPhase hEmpty, pollEmpty_of_not_drained hPhase' (h.tail ▸ hHsnap ▸ hEmpty)]
      exact .refused _

theorem SameResult.afterByte {r q : Option Result × State} (h : SameResult r q) :
    Agrees (afterByte r) (afterByte q) := by
  obtain ⟨x, a⟩ := r
  obtain ⟨y, c⟩ := q
  obtain ⟨rfl, hState⟩ := h
  cases x with
  | none => exact { hState with delivered := rfl }
  | some x => exact hState.finishPoll x

theorem Agrees.pollByte {s t : State} (h : Agrees s t) (τ : Nat) : Related Agrees (pollByte τ s) (pollByte τ t) := by
  refine related_andThen h.drainByte fun d e ⟨hByte, hState⟩ => ?_
  rw [hByte]
  exact related_andThen (hState.assemble e.1 τ) fun r q hrq => .next hrq.afterByte

theorem Agrees.pollLoop {s t : State} (h : Agrees s t) (hDraining : s.phase = .draining) (n τ : Nat) (ts : List Nat) :
    Related Agrees (pollLoop n τ ts s) (pollLoop n τ ts t) := by
  induction n generalizing s t τ ts with
  | zero => exact h.pollEmpty
  | succ n ih =>
    unfold Machine.pollLoop
    rw [← h.isEmpty hDraining]
    split
    case isTrue => exact h.pollEmpty
    case isFalse =>
      have hByte := h.pollByte τ
      generalize Machine.pollByte τ s = o, Machine.pollByte τ t = o' at hByte
      cases hByte with
      | fault e => exact .fault e
      | refused e => exact .refused e
      | @next u v hNext =>
        cases hPhase : u.phase with
        | idle =>
          simp only [hPhase, ← hNext.phase]
          exact .next hNext
        | draining =>
          simp only [hPhase, ← hNext.phase]
          exact ih hNext hPhase _ _

theorem Agrees.pollWhole {s t : State} (h : Agrees s t) (τ : Nat) (ts : List Nat) :
    Related Agrees (pollWhole τ ts s) (pollWhole τ ts t) := by
  cases hPhase : s.phase with
  | idle =>
    have hSnapped : Agrees { s with hsnap := s.head, phase := .draining } { t with hsnap := t.head, phase := .draining } :=
      { h with phase := rfl, hsnap := fun _ => h.head }
    have hAvail := hSnapped.avail rfl
    rw [Machine.pollWhole, Machine.pollWhole, snapHead_of_idle hPhase, snapHead_of_idle (h.phase ▸ hPhase), andThen_next,
      andThen_next, hAvail]
    exact hSnapped.pollLoop rfl _ τ ts
  | draining =>
    rw [Machine.pollWhole, Machine.pollWhole, snapHead_of_draining hPhase, snapHead_of_draining (h.phase ▸ hPhase)]
    exact .refused _

theorem Agrees.exec_endPoll {s t : State} (h : Agrees s t) (x : Result) :
    Related Agrees (exec (.endPoll x) s) (exec (.endPoll x) t) := by
  change Related Agrees (execEndPoll x s) (execEndPoll x t)
  unfold execEndPoll
  rw [← h.phase]
  split
  · exact .refused _
  · exact .next (h.finishPoll x)

/-! RESET and GETLASTERROR. -/

theorem Agrees.resetBlock {s t : State} (h : Agrees s t) : Agrees (resetBlock s) (resetBlock t) where
  cfg := h.cfg
  ring := rfl
  head := rfl
  tail := rfl
  pos := rfl
  phase := rfl
  lerrV := rfl
  resKind := rfl
  pending := h.pending
  byteStep := rfl
  delivered := h.delivered
  fbuf i hi := absurd hi (Nat.not_lt_zero _)
  lbt hPos := absurd rfl hPos
  hsnap := nofun
  lerrCode := nofun
  resMm hKind := absurd hKind (by decide : (0 : BitVec 2) ≠ 1)
  resCode hKind := absurd hKind (by decide : (0 : BitVec 2) ≠ 2)

/-- R28: LERR_CODE is not exposed when LERR_V is 0. -/
theorem Agrees.latchValue {s t : State} (h : Agrees s t) : latchValue s = latchValue t := by
  rw [Machine.latchValue, Machine.latchValue, ← h.lerrV]
  split
  case isTrue hValid => rw [h.lerrCode hValid]
  case isFalse => rfl

/-! Requests. -/

theorem Agrees.awaitsLastByte {s t : State} (h : Agrees s t) {f : Frame} (hAwaits : AwaitsLastByte f s) :
    AwaitsLastByte f t := by
  obtain ⟨hPhase, hPos, hTake, hDrained⟩ := hAwaits
  have hTwelve : s.fbuf.toList.take 12 = t.fbuf.toList.take 12 := by
    apply List.ext_getElem (by simp)
    intro i hi _
    have hIndex : i < 12 := by simpa using hi
    simpa using h.fbuf ⟨i, by omega⟩ (by rw [hPos]; exact hIndex)
  exact ⟨h.phase ▸ hPhase, h.pos ▸ hPos, hTake.trans hTwelve, h.byteStep ▸ hDrained⟩

theorem Agrees.symm {s t : State} (h : Agrees s t) : Agrees t s where
  cfg := h.cfg.symm
  ring := h.ring.symm
  head := h.head.symm
  tail := h.tail.symm
  pos := h.pos.symm
  phase := h.phase.symm
  lerrV := h.lerrV.symm
  resKind := h.resKind.symm
  pending := h.pending.symm
  byteStep := h.byteStep.symm
  delivered := h.delivered.symm
  fbuf i hi := (h.fbuf i (h.pos ▸ hi)).symm
  lbt hPos := (h.lbt (h.pos ▸ hPos)).symm
  hsnap hPhase := (h.hsnap (h.phase ▸ hPhase)).symm
  lerrCode hValid := (h.lerrCode (h.lerrV ▸ hValid)).symm
  resMm hKind := (h.resMm (h.resKind ▸ hKind)).symm
  resCode hKind := (h.resCode (h.resKind ▸ hKind)).symm

theorem Agrees.completeRequested {s t : State} (h : Agrees s t) (f : Frame) :
    Related Agrees (completeRequested f s) (completeRequested f t) := by
  by_cases hAwaits : AwaitsLastByte f s
  · have ⟨_, hPos, _, _⟩ := hAwaits
    have hLbt : s.lbt = t.lbt := h.lbt (by rw [hPos]; decide)
    rw [Machine.completeRequested, Machine.completeRequested, if_pos hAwaits, if_pos (h.awaitsLastByte hAwaits), hLbt]
    exact h.exec_asm (cs f) t.lbt
  · rw [Machine.completeRequested, Machine.completeRequested, if_neg hAwaits, if_neg (mt h.symm.awaitsLastByte hAwaits)]
    exact .refused _

theorem perform_getlasterror (s : State) :
    perform .getlasterror s = .next (deliver (.latch (latchValue s)) s) := rfl

theorem Agrees.perform {s t : State} (h : Agrees s t) (i : Instr) : Related Agrees (perform i s) (perform i t) := by
  cases i
  case decBadchk f | decMeas20 f | decMeas21 f | decMeas22 f | decErrEe f | decErrHeur f | decDiscard f
      | decodeFrame f =>
    exact h.completeRequested f
  case chk | bcd32 | cmdLaserOn | cmdLaserOff | cmdQuickRead => exact .next (h.deliver _)
  case getlasterror =>
    rw [perform_getlasterror, perform_getlasterror, h.latchValue]
    exact .next (h.deliver _)
  case reset => exact .next (h.resetBlock.deliver .nothing)
  case rxwrite b => exact related_andThen (h.storeReceived b) fun u v huv => .next (huv.deliver .nothing)
  case snap | pollStart => exact related_andThen h.snapHead fun u v huv => .next (huv.deliver .nothing)
  case drain =>
    refine related_andThen h.drainByte fun d e ⟨hByte, hState⟩ => ?_
    rw [hByte]
    exact .next (hState.deliver _)
  case asm b τ => exact h.exec_asm b τ
  case pollStep τ => exact h.pollByte τ
  case poll τ ts => exact h.pollWhole τ ts
  case pollEnd => exact h.pollEmpty
  case endPoll x => exact h.exec_endPoll x

theorem Agrees.inPlace {s t : State} (h : Agrees s t) (i : Instr) : inPlace i s = inPlace i t := by
  cases i
  case drain | pollStep | pollEnd => exact congrArg (· == ByteStep.outside) h.byteStep
  case asm b τ => exact congrArg (· == ByteStep.drained b) h.byteStep
  case endPoll x => exact congrArg (· == ByteStep.returned x) h.byteStep
  all_goals rfl

theorem Agrees.moveByteStep {s t : State} (h : Agrees s t) (i : Instr) : Agrees (moveByteStep i s) (moveByteStep i t) := by
  unfold Machine.moveByteStep
  split
  · exact { h with byteStep := congrArg handOver h.delivered }
  · exact h

theorem Agrees.runRequest {s t : State} (h : Agrees s t) (i : Instr) :
    Related Agrees (runRequest i s) (runRequest i t) := by
  unfold Machine.runRequest
  rw [← h.inPlace i]
  split
  · exact related_andThen (h.perform i) fun u v huv => .next (huv.moveByteStep i)
  · exact .refused _

/-- Settles O4: the two states take the same request, and every operation relates their outcomes. -/
theorem unspecifiedContentsNeverReachAResult : Obligations.UnspecifiedContentsNeverReachAResult := by
  intro s t hAgree
  have h := (agree_iff_agrees s t).mp hAgree
  apply outcomesAgree_of_related
  cases hTake : takeRequest s.cfg s.pending with
  | none =>
    rw [step_of_no_request hTake, step_of_no_request (h.cfg ▸ h.pending ▸ hTake)]
    exact .next h
  | some taken =>
    obtain ⟨r, rest⟩ := taken
    have hTake' : takeRequest t.cfg t.pending = some (r, rest) := h.cfg ▸ h.pending ▸ hTake
    cases hDecode : decode s.cfg r with
    | error e =>
      rw [step_of_undecodable hTake hDecode, step_of_undecodable hTake' (h.cfg ▸ hDecode)]
      exact .refused _
    | ok i =>
      have hTaken : Agrees { s with pending := rest } { t with pending := rest } := { h with pending := rfl }
      rw [step_of_request hTake hDecode, step_of_request hTake' (h.cfg ▸ hDecode)]
      exact hTaken.runRequest i

end Sys2Proof.Machine
